-- ==== Sys2Proof/Word.lean ====
section
/-! DEFINITION. The code word, the only unit any access moves (R40, R43). -/

namespace Sys2Proof

/-- A code word: 3 bits, values 0 to 7, bit 2 the most significant (R7, R40). The values OUT
appends have the same range (R30, R41) and the same type. Register values and the instruction
pointer are natural numbers of any size (R6, R21, R25) and are plain `Nat`. -/
abbrev CodeWord := BitVec 3

end Sys2Proof
end

