-- ==== Sys2Proof/Config.lean ====
section
/-! DEFINITION. What is fixed for every engine (R6). The spec leaves no value of the engine open
(93_implementation_defined.md: none is treated as any value), so there is no free value here. -/

namespace Sys2Proof.Config

/-- `CW`, the width of a code word in bits (R6). -/
abbrev codeWordBits : Nat := 3

/-- Code words per instruction (R6, R60). -/
abbrev instrWords : Nat := 2

/-- The modulus of BST and OUT (R111, R130). -/
abbrev digitModulus : Nat := 8

end Sys2Proof.Config
end

