-- ==== Sys2Proof/Syntax.lean ====
section
/-! DEFINITION. The instruction set: one constructor per row of the opcode map (R65). -/

namespace Sys2Proof

/-- The three general registers, a closed enumeration (R21). -/
inductive Reg where
  | A
  | B
  | C
  deriving DecidableEq, Repr

/-- An instruction. The argument is the operand word as it stands in the Program. BXC ignores its
operand, and all eight of its encodings are the same instruction (R67), so it carries none. -/
inductive Instr where
  /-- `A <- A div 2^combo(o)` (R100). -/
  | adv (o : CodeWord)
  /-- `B <- B xor o`, `o` a literal (R110). -/
  | bxl (o : CodeWord)
  /-- `B <- combo(o) mod 8` (R111). -/
  | bst (o : CodeWord)
  /-- `if A ≠ 0 then pc <- o`, `o` a literal (R120). -/
  | jnz (o : CodeWord)
  /-- `B <- B xor C` (R112). -/
  | bxc
  /-- `out <- out ++ [combo(o) mod 8]` (R130). -/
  | out (o : CodeWord)
  /-- `B <- A div 2^combo(o)` (R101). -/
  | bdv (o : CodeWord)
  /-- `C <- A div 2^combo(o)` (R102). -/
  | cdv (o : CodeWord)
  deriving DecidableEq, Repr

/-- The operand classes (R63). -/
inductive OperandClass where
  | literal
  | combo
  | ignored
  deriving DecidableEq, Repr

/-- The operand class of each opcode (R64). -/
def Instr.operandClass : Instr → OperandClass
  | .adv _ => .combo
  | .bxl _ => .literal
  | .bst _ => .combo
  | .jnz _ => .literal
  | .bxc => .ignored
  | .out _ => .combo
  | .bdv _ => .combo
  | .cdv _ => .combo

/-- The source's name of the opcode (R65, R70). -/
def Instr.mnemonic : Instr → String
  | .adv _ => "ADV"
  | .bxl _ => "BXL"
  | .bst _ => "BST"
  | .jnz _ => "JNZ"
  | .bxc => "BXC"
  | .out _ => "OUT"
  | .bdv _ => "BDV"
  | .cdv _ => "CDV"

end Sys2Proof
end

