-- ==== Sys2Proof/WellFormed.lean ====
section
/-! DEFINITION. Which terms of `Instr` are instructions: the five illegal encodings are none (R66). -/

namespace Sys2Proof

/-- An operand word that combo resolution gives a value: 0 to 6 (R63, R85). -/
def CodeWord.comboLegal (o : CodeWord) : Bool := o != 7

/-- A combo instruction has a combo-legal operand; a literal operand is any word (R64, R66, R67). -/
def Instr.wellFormed : Instr → Bool
  | .adv o => CodeWord.comboLegal o
  | .bxl _ => true
  | .bst o => CodeWord.comboLegal o
  | .jnz _ => true
  | .bxc => true
  | .out o => CodeWord.comboLegal o
  | .bdv o => CodeWord.comboLegal o
  | .cdv o => CodeWord.comboLegal o

end Sys2Proof
end

