-- ==== Sys2Proof/Decode.lean ====
section
/-! DEFINITION. Decoding a pair of code words (R68), the encoder, and the opcode table (R65). -/

namespace Sys2Proof

/-- Why a decoder refuses. -/
inductive DecodeReject where
  /-- `Illegal` of R68: the opcode resolves a combo operand and the operand word is 7 (R66). -/
  | comboOperandSeven (opcode : CodeWord)
  /-- A sequence of an odd number of words: the last opcode has no operand word (R60). Only
  `decodeProgram` answers this; a run meets the case at fetch (R45). -/
  | missingOperandWord
  deriving DecidableEq, Repr

/-- The combo rows of R68: `Illegal` on operand 7, the instruction otherwise. -/
def decodeCombo (opcode operand : CodeWord) (mk : CodeWord → Instr) : Except DecodeReject Instr :=
  if CodeWord.comboLegal operand then .ok (mk operand) else .error (.comboOperandSeven opcode)

/-- R68: total on pairs of code words; it looks at nothing else (R83). -/
def decode (opcode operand : CodeWord) : Except DecodeReject Instr :=
  match opcode with
  | 0 => decodeCombo 0 operand .adv
  | 1 => .ok (.bxl operand)
  | 2 => decodeCombo 2 operand .bst
  | 3 => .ok (.jnz operand)
  | 4 => .ok .bxc
  | 5 => decodeCombo 5 operand .out
  | 6 => decodeCombo 6 operand .bdv
  | 7 => decodeCombo 7 operand .cdv

/-- A sequence of words read as instructions, pair by pair from address 0 (R13, R60, R62). The
engine never reads a Program so (R148: no validation pass); this is for statements about words. -/
def decodeProgram : List CodeWord → Except DecodeReject (List Instr)
  | [] => .ok []
  | [_] => .error .missingOperandWord
  | opcode :: operand :: rest =>
    match decode opcode operand, decodeProgram rest with
    | .ok i, .ok is => .ok (i :: is)
    | .error r, _ => .error r
    | .ok _, .error r => .error r

/-- The two words of an instruction, opcode first (R60, R65); BXC in its canonical spelling `4,0`
(R67). -/
def encode : Instr → CodeWord × CodeWord
  | .adv o => (0, o)
  | .bxl o => (1, o)
  | .bst o => (2, o)
  | .jnz o => (3, o)
  | .bxc => (4, 0)
  | .out o => (5, o)
  | .bdv o => (6, o)
  | .cdv o => (7, o)

/-- The words of a list of instructions, one pair after another (R60). -/
def encodeProgram : List Instr → List CodeWord
  | [] => []
  | i :: is => (encode i).1 :: (encode i).2 :: encodeProgram is

/-- The 6-bit view `I = opcode * 8 + operand` (R61): notation for match and mask only. -/
def pairView (opcode operand : CodeWord) : BitVec 6 := opcode ++ operand

/-- One row of the opcode map (R65). -/
structure OpcodeRow where
  mnemonic : String
  pattern  : BitVec 6
  mask     : BitVec 6
  operandClass : OperandClass
  deriving DecidableEq, Repr

/-- The complete opcode map (R65, operand classes of R64). -/
def opcodeTable : List OpcodeRow :=
  [ ⟨"ADV", 0b000000, 0b111000, .combo⟩,
    ⟨"BXL", 0b001000, 0b111000, .literal⟩,
    ⟨"BST", 0b010000, 0b111000, .combo⟩,
    ⟨"JNZ", 0b011000, 0b111000, .literal⟩,
    ⟨"BXC", 0b100000, 0b111000, .ignored⟩,
    ⟨"OUT", 0b101000, 0b111000, .combo⟩,
    ⟨"BDV", 0b110000, 0b111000, .combo⟩,
    ⟨"CDV", 0b111000, 0b111000, .combo⟩ ]

/-- Does a 6-bit view belong to a row (R65)? -/
def OpcodeRow.holds (r : OpcodeRow) (view : BitVec 6) : Bool := view &&& r.mask == r.pattern

/-- The opcode word of a table word: bits 5..3 of the 6-bit view (R61). -/
def tableWordOpcode (w : Nat) : CodeWord := BitVec.ofNat 3 (w / 8)

/-- The operand word of a table word: bits 2..0 of the 6-bit view (R61). -/
def tableWordOperand (w : Nat) : CodeWord := BitVec.ofNat 3 (w % 8)

/-- The decoder on an instruction given as the opcode table numbers it: `w` is the 6-bit view of
R61 (log entry 5). A number above 63 is no view of a pair, and is refused. -/
def decodeTableWord (_nbits w : Nat) : Option Instr :=
  if w < 64 then (decode (tableWordOpcode w) (tableWordOperand w)).toOption else none

end Sys2Proof
end

