-- ==== Sys2Proof/Machine/State.lean ====
section
/-! DEFINITION. The state of the engine (R20), the fault causes (R31, R141, R142), the reasons a
step can stop, and the state after reset. -/

namespace Sys2Proof.Machine

/-- The kinds of `IllFormedProgram` (R142, decision D6). -/
inductive IllFormedKind where
  /-- A step begins with `pc < L` and `pc` odd (R44, decision D4). -/
  | misalignedIP
  /-- A step begins with `pc` even, `pc < L` and `pc + 1 >= L` (R45). -/
  | operandFetchOutOfRange
  /-- A taken JNZ has an operand `>= L` (R121, decision D5). -/
  | jumpTargetOutOfRange
  deriving DecidableEq, Repr

/-- The fault causes (R31, R140). A step that raises one takes a NEXT state whose latch holds it
(R147); `step` answers `.fault` with it only from a state that is already Faulted, which has no
step (R32): this is how the caller receives the condition (R174, R176; log entry 4). -/
inductive Fault where
  /-- A reached combo opcode with operand word 7 (R141). Raised by `raiseMalformed`, from the five
  combo meanings and from decoding. Safe for a run that reaches it; that unreached pairs raise
  nothing is decision D7 (log entry 8, unsafe). -/
  | malformedOperand
  /-- An odd pc, a missing operand word, or a taken jump to or past the end (R142). Raised by
  `State.fetchPair` and `execJnz`. Safe: the spec errs toward a fault (R15; log entries 6, 7). -/
  | illFormedProgram (kind : IllFormedKind)
  deriving DecidableEq, Repr

/-- Why there is no step and no fault. -/
inductive Refusal where
  /-- The arm of an instruction without a meaning. No arm of this model raises it. Safe. -/
  | notModelled (mnemonic : String)
  /-- The state is Halted: the run ended normally, which is no error, and has no step (R32, R81).
  Raised by `step`. Safe: the spec gives no further behaviour (log entry 4). -/
  | runHalted
  deriving DecidableEq, Repr

/-- What a fault records, diagnostic only (R143): the `pc` of the step, and the opcode word
(`MalformedOperand`) or the operand word (`JumpTargetOutOfRange`). -/
structure FaultInfo where
  pc   : Nat
  word : Option CodeWord
  deriving DecidableEq, Repr

/-- The contents of a set fault latch (R31, R143). -/
structure FaultRecord where
  cause : Fault
  info  : FaultInfo
  deriving DecidableEq, Repr

/-- The state of a run (R20). `program` is the launch parameter the run fetches from (R6); no
instruction writes it, and it stands here because `step` has no other argument (log entry 1). -/
structure State where
  /-- Register A, a natural number of any size (R21). -/
  a : Nat
  /-- Register B (R21). -/
  b : Nat
  /-- Register C (R21). -/
  c : Nat
  /-- The instruction pointer, counted in code words (R25). -/
  pc : Nat
  /-- The output sequence, oldest first (R30). -/
  out : List CodeWord
  /-- The fault latch (R31). -/
  fault : Option FaultRecord
  /-- The Program; `L` is its length (R6, R40). -/
  program : List CodeWord
  deriving DecidableEq, Repr

/-- `L`, the length of the Program in code words (R6). -/
abbrev State.len (s : State) : Nat := s.program.length

/-- The run status (R32), computed by `State.status` and stored nowhere. -/
inductive Status where
  | running
  | halted
  | faulted (cause : Fault)
  deriving DecidableEq, Repr

/-- The state before any launch. The engine's only reset is a launch, whose parameters the host
supplies (R35, R170, R172); DESIGN CHOICE: this is the launch of the empty Program with all three
registers 0, so it is Halted (log entry 2, unsafe). -/
def State.reset : State :=
  { a := 0, b := 0, c := 0, pc := 0, out := [], fault := none, program := [] }

/-- What a step answers. -/
abbrev Result := Host.Outcome State Fault Refusal

end Sys2Proof.Machine
end

