-- ==== Sys2Proof/Machine/Ops.lean ====
section
/-! DEFINITION. The named operations on state: registers, the instruction pointer, the output, the
Program, taking a fault, and fetching an instruction. -/

namespace Sys2Proof.Machine

/-- `x[r]` (R8, R21). -/
def State.reg (s : State) : Reg → Nat
  | .A => s.a
  | .B => s.b
  | .C => s.c

/-- `x[r] <- v` (R8): a write to one register never changes another (R21). -/
def State.writeReg (s : State) (r : Reg) (v : Nat) : State :=
  match r with
  | .A => { s with a := v }
  | .B => { s with b := v }
  | .C => { s with c := v }

/-- `pc <- pc + 2` (R84). -/
def State.advance (s : State) : State := { s with pc := s.pc + Config.instrWords }

/-- `pc <- t` (R8). -/
def State.jump (s : State) (target : Nat) : State := { s with pc := target }

/-- `OutAppend(v)` (R8, R131): an append always succeeds. -/
def State.appendOut (s : State) (v : CodeWord) : State := { s with out := s.out ++ [v] }

/-- `MemRead(addr, 1)` (R8, R47): the code word at an address below `L`; no other address holds
anything (R42, R48). -/
def State.memRead (s : State) (addr : Nat) : Option CodeWord := s.program[addr]?

/-- `raise <Fault>(info)`, taking a fault (R147): the latch is set and nothing else changes. There
is no handler, saved register or mode, and no return (R149). -/
def State.raise (s : State) (cause : Fault) (info : FaultInfo) : State :=
  { s with fault := some { cause := cause, info := info } }

/-- `MalformedOperand`, with the `pc` and opcode word R143 records (R141). -/
def State.raiseMalformed (s : State) (opcode : CodeWord) : State :=
  s.raise .malformedOperand { pc := s.pc, word := some opcode }

/-- `IllFormedProgram(MisalignedIP)` (R44, R143). -/
def State.raiseMisaligned (s : State) : State :=
  s.raise (.illFormedProgram .misalignedIP) { pc := s.pc, word := none }

/-- `IllFormedProgram(OperandFetchOutOfRange)` (R45, R143). -/
def State.raiseOperandFetch (s : State) : State :=
  s.raise (.illFormedProgram .operandFetchOutOfRange) { pc := s.pc, word := none }

/-- `IllFormedProgram(JumpTargetOutOfRange)`, with the operand R143 records (R121). -/
def State.raiseJumpTarget (s : State) (operand : CodeWord) : State :=
  s.raise (.illFormedProgram .jumpTargetOutOfRange) { pc := s.pc, word := some operand }

/-- Steps 1 to 5 of R80: the instruction at `pc`, or the state in which its fetch or decoding has
raised a fault. The order of the checks is that of R146 (log entry 10). Fetch changes no state
(R82). -/
def State.fetchInstr (s : State) : Except State Instr :=
  if s.pc % 2 = 1 then .error s.raiseMisaligned
  else
    match s.memRead s.pc, s.memRead (s.pc + 1) with
    | some opcode, some operand =>
      match decode opcode operand with
      | .ok i => .ok i
      | .error _ => .error (s.raiseMalformed opcode)
    | _, _ => .error s.raiseOperandFetch

/-- The condition the latch holds, without its diagnostic info (R31). -/
def State.cause (s : State) : Option Fault := s.fault.map FaultRecord.cause

/-- The spec's number of a fault cause (R143), diagnostic only. -/
def Fault.code : Fault → Nat
  | .malformedOperand => 1
  | .illFormedProgram _ => 2

/-- The spec's number of a kind (R143), diagnostic only. -/
def IllFormedKind.number : IllFormedKind → Nat
  | .misalignedIP => 1
  | .operandFetchOutOfRange => 2
  | .jumpTargetOutOfRange => 3

/-- The code the latch shows: 0 is no fault (R143). -/
def State.faultCode (s : State) : Nat :=
  match s.cause with
  | none => 0
  | some f => f.code

/-- Two code words put at `pc` and `pc + 1` of the Program, which is padded with zero words if it
ends before `pc`. No instruction does this (R46); it stands for the host's load of a Program, so
that `State.withFetchWord` has a pair to fetch (log entry 3). -/
def State.placePair (s : State) (opcode operand : CodeWord) : State :=
  { s with program :=
      s.program.take s.pc ++ List.replicate (s.pc - s.program.length) 0
        ++ [opcode, operand] ++ s.program.drop (s.pc + Config.instrWords) }

/-- The even address at or below `pc` with the latch clear: where a pair can be fetched (R44,
R32; log entry 3). -/
def State.readyToFetch (s : State) : State := { s with pc := s.pc - s.pc % 2, fault := none }

end Sys2Proof.Machine
end

