-- ==== Sys2Proof/Machine/Operands.lean ====
section
/-! DEFINITION. The operand addressing modes (R85 to R88) and the arithmetic the instructions share
(R9, R10, R104). -/

namespace Sys2Proof.Machine

/-- Combo resolution (R85) of an operand word, from the register values before the instruction
(R86). Operand 7 has no value, and must never be given one. -/
def State.combo (s : State) (o : CodeWord) : Option Nat :=
  match o with
  | 0 => some 0
  | 1 => some 1
  | 2 => some 2
  | 3 => some 3
  | 4 => some (s.reg .A)
  | 5 => some (s.reg .B)
  | 6 => some (s.reg .C)
  | 7 => none

/-- A literal operand is the number of its word, 0 to 7 (R87). -/
def literal (o : CodeWord) : Nat := o.toNat

/-- An instruction with a combo operand: its effect on the resolved value, or `MalformedOperand`
when there is none (R85, R141). -/
def State.withCombo (s : State) (opcode o : CodeWord) (effect : Nat → State) : Result :=
  match s.combo o with
  | some n => .next (effect n)
  | none => .next (s.raiseMalformed opcode)

/-- `a div 2^n` as a right shift, so that `2^n` is never built (R10, R104). -/
def divPow2 (a n : Nat) : Nat := a >>> n

/-- `a xor b` on natural numbers of any length (R9). -/
def xorNat (a b : Nat) : Nat := a ^^^ b

/-- `v mod 8` (R113). -/
def lowDigit (v : Nat) : Nat := v % Config.digitModulus

/-- `v mod 8` as the 3-bit value OUT appends (R41, R130). -/
def lowDigitWord (v : Nat) : CodeWord := BitVec.ofNat Config.codeWordBits (lowDigit v)

end Sys2Proof.Machine
end

