-- ==== Sys2Proof/Machine/BRegister.lean ====
section
/-! DEFINITION. The B-register family: BXL, BST, BXC (R110 to R114). -/

namespace Sys2Proof.Machine

/-- A new value for register B, and on to the next instruction (R114, R84). -/
def State.setB (s : State) (v : Nat) : State := (s.writeReg .B v).advance

/-- BXL, opcode 1 (R110): the operand is a number, never a register. -/
def execBxl (o : CodeWord) (s : State) : Result :=
  .next (s.setB (xorNat (s.reg .B) (literal o)))

/-- BST, opcode 2 (R111). -/
def execBst (o : CodeWord) (s : State) : Result :=
  s.withCombo 2 o fun v => s.setB (lowDigit v)

/-- BXC, opcode 4 (R112): not reduced mod 8. -/
def execBxc (s : State) : Result := .next (s.setB (xorNat (s.reg .B) (s.reg .C)))

end Sys2Proof.Machine
end

