-- ==== Sys2Proof/Machine/Division.lean ====
section
/-! DEFINITION. The division family: ADV, BDV, CDV (R100 to R104). -/

namespace Sys2Proof.Machine

/-- The effect the family shares: register A divided by `2^n`, into `r` (R103). -/
def State.divideInto (s : State) (r : Reg) (n : Nat) : State :=
  (s.writeReg r (divPow2 (s.reg .A) n)).advance

/-- ADV, opcode 0 (R100). -/
def execAdv (o : CodeWord) (s : State) : Result := s.withCombo 0 o (s.divideInto .A)

/-- BDV, opcode 6 (R101). -/
def execBdv (o : CodeWord) (s : State) : Result := s.withCombo 6 o (s.divideInto .B)

/-- CDV, opcode 7 (R102). -/
def execCdv (o : CodeWord) (s : State) : Result := s.withCombo 7 o (s.divideInto .C)

end Sys2Proof.Machine
end

