-- ==== Sys2Proof/Machine/Flags.lean ====
section
/-! DEFINITION. The engine has no flags or condition codes (R29). This file holds its two
conditions: the one JNZ tests, and the run status. -/

namespace Sys2Proof.Machine

/-- JNZ's condition, on the whole value of register A (R29, R120). -/
def State.jumpTaken (s : State) : Bool := s.reg .A != 0

/-- Is a jump target inside the Program (R121)? -/
def State.targetInRange (s : State) (target : Nat) : Bool := decide (target < s.len)

/-- The run status, a function of the latch, `pc` and `L` (R32). -/
def State.status (s : State) : Status :=
  match s.cause with
  | some f => .faulted f
  | none => if s.len ≤ s.pc then .halted else .running

end Sys2Proof.Machine
end

