-- ==== Sys2Proof/Machine/Jump.lean ====
section
/-! DEFINITION. Control transfer: JNZ (R120 to R123). -/

namespace Sys2Proof.Machine

/-- JNZ, opcode 3 (R120). A taken jump to an address at or past the end raises
`JumpTargetOutOfRange` (R121, decision D5, log entry 7); a taken jump to an odd address completes,
and the next step faults (R121). Not taken, the operand is not looked at. -/
def execJnz (o : CodeWord) (s : State) : Result :=
  if s.jumpTaken then
    if s.targetInRange (literal o) then .next (s.jump (literal o)) else .next (s.raiseJumpTarget o)
  else .next s.advance

end Sys2Proof.Machine
end

