-- ==== Sys2Proof/Machine/Output.lean ====
section
/-! DEFINITION. Output: OUT (R130 to R132). -/

namespace Sys2Proof.Machine

/-- OUT, opcode 5 (R130). -/
def execOut (o : CodeWord) (s : State) : Result :=
  s.withCombo 5 o fun v => (s.appendOut (lowDigitWord v)).advance

end Sys2Proof.Machine
end

