-- ==== Sys2Proof/Machine/Step.lean ====
section
/-! DEFINITION. One step of the engine (R80), and the placing of an instruction where it fetches. -/

namespace Sys2Proof.Machine

/-- The step (R80), defined on Running states (R32). Halted and Faulted states have no step: a
Faulted one hands its condition to the caller, a Halted one is refused by name (log entry 4). -/
def step (s : State) : Host.Outcome State Fault Refusal :=
  match s.status with
  | .faulted f => .fault f
  | .halted => .refused .runHalted
  | .running =>
    match s.fetchInstr with
    | .error raised => .next raised
    | .ok i => exec i s

/-- The instruction whose 6-bit view is `w` (log entry 5) placed where the next step fetches, in a
state that can fetch it: the host's load of a Program (log entry 3). -/
def State.withFetchWord (s : State) (_nbits w : Nat) : State :=
  s.readyToFetch.placePair (tableWordOpcode w) (tableWordOperand w)

end Sys2Proof.Machine
end

