-- ==== Sys2Proof/Machine/Launch.lean ====
section
/-! DEFINITION. The host interface (R170 to R177): the launch of a run and what the host receives. -/

namespace Sys2Proof.Machine

/-- The launch of a run, the engine's only reset (R35, R170, R172). A Program of odd length is
launched like any other (R171). -/
def State.launch (a0 b0 c0 : Nat) (program : List CodeWord) : State :=
  { a := a0, b := b0, c := c0, pc := 0, out := [], fault := none, program := program }

/-- Why a launch with parameters of wider types is refused (R171, decision D13). Safe. -/
inductive LaunchRefusal where
  /-- An initial register value below 0. -/
  | negativeRegister (r : Reg)
  /-- The first element of the Program that is no code word, and its address. -/
  | notACodeWord (addr : Nat)
  deriving DecidableEq, Repr

/-- The code words of a list of integers, refused at the first one outside 0..7 (R69, R171);
`addr` is the address of the list's head. -/
def codeWords (addr : Nat) : List Int → Except LaunchRefusal (List CodeWord)
  | [] => .ok []
  | w :: ws =>
    if 0 ≤ w ∧ w < 8 then
      match codeWords (addr + 1) ws with
      | .ok rest => .ok (BitVec.ofNat Config.codeWordBits w.toNat :: rest)
      | .error r => .error r
    else .error (.notACodeWord addr)

/-- A launch given integers: it must be refused, never clamped or masked, where a parameter is
outside its type (R171, decision D13). -/
def launchIntegers (a0 b0 c0 : Int) (program : List Int) : Except LaunchRefusal State :=
  if a0 < 0 then .error (.negativeRegister .A)
  else if b0 < 0 then .error (.negativeRegister .B)
  else if c0 < 0 then .error (.negativeRegister .C)
  else
    match codeWords 0 program with
    | .ok words => .ok (State.launch a0.toNat b0.toNat c0.toNat words)
    | .error r => .error r

/-- What the host can tell of a run (R156). -/
inductive RunView where
  /-- The run has not ended: the host sees nothing of it (R177). -/
  | inProgress
  /-- The result: the output sequence and the final registers, not the pc (R174, R175). -/
  | result (out : List CodeWord) (a b c : Nat)
  /-- The fault condition, instead of a result (R147, R176). -/
  | failed (cause : Fault)
  deriving DecidableEq, Repr

/-- What the host receives of a run in a state (R174 to R177). -/
def State.hostView (s : State) : RunView :=
  match s.status with
  | .running => .inProgress
  | .halted => .result s.out s.a s.b s.c
  | .faulted f => .failed f

end Sys2Proof.Machine
end

