-- ==== Sys2Proof/Safety.lean ====
section
/-! DEFINITION. What claims about the engine are stated in: runs, the pair about to execute, raising
a fault, which registers an instruction reads and writes, and the invariants. -/

namespace Sys2Proof.Machine

/-- `t` is reached from `s` by steps (R89). -/
inductive Reaches (s : State) : State → Prop where
  | refl : Reaches s s
  | tail {t u : State} : Reaches s t → step t = .next u → Reaches s u

/-- The next step reads the pair `(opcode, operand)`: the state is Running, its `pc` is even, and
both words exist (R80). -/
abbrev State.AtPair (s : State) (opcode operand : CodeWord) : Prop :=
  s.fault = none ∧ s.pc % 2 = 0 ∧
    s.program[s.pc]? = some opcode ∧ s.program[s.pc + 1]? = some operand

/-- The answer is the state `s` with only the latch set, to this cause (R147). The recorded info is
left open: it is diagnostic only (R143). -/
def Raises (r : Result) (s : State) (cause : Fault) : Prop :=
  ∃ info, r = .next { s with fault := some { cause := cause, info := info } }

/-- A result with the state of its next case changed. -/
def mapNext (f : State → State) : Result → Result
  | .next s => .next (f s)
  | .fault x => .fault x
  | .refused x => .refused x

/-- The register a combo operand reads (R85). -/
def comboReads (o : CodeWord) : Option Reg :=
  match o with
  | 4 => some .A
  | 5 => some .B
  | 6 => some .C
  | _ => none

/-- Does the instruction read the register (R23)? -/
def readsReg (i : Instr) (r : Reg) : Bool :=
  match i with
  | .adv o => r == .A || comboReads o == some r
  | .bxl _ => r == .B
  | .bst o => comboReads o == some r
  | .jnz _ => r == .A
  | .bxc => r == .B || r == .C
  | .out o => comboReads o == some r
  | .bdv o => r == .A || comboReads o == some r
  | .cdv o => r == .A || comboReads o == some r

/-- The register the instruction writes (R23). -/
def writesReg : Instr → Option Reg
  | .adv _ => some .A
  | .bxl _ => some .B
  | .bst _ => some .B
  | .jnz _ => none
  | .bxc => some .B
  | .out _ => none
  | .bdv _ => some .B
  | .cdv _ => some .C

/-- Is the instruction OUT, the only writer of the output sequence (R30)? -/
def isOut : Instr → Bool
  | .out _ => true
  | _ => false

/-- The instruction pointer stays inside the Program or at its end (R27). -/
abbrev State.PcInRange (s : State) : Prop := s.pc ≤ s.len

/-- A state of a run of an odd-length Program that has not reached its end (R45). -/
abbrev State.BeforeOddEnd (s : State) : Prop := s.len % 2 = 1 ∧ s.pc < s.len

/-- The latch is set only where the state shows the cause it holds (R141, R142, R147). -/
def State.LatchExplained (s : State) : Prop :=
  match s.cause with
  | none => True
  | some .malformedOperand =>
    s.pc % 2 = 0 ∧ s.program[s.pc + 1]? = some 7 ∧
      ∃ op ∈ [0, 2, 5, 6, 7], s.program[s.pc]? = some op
  | some (.illFormedProgram .misalignedIP) => s.pc % 2 = 1 ∧ s.pc < s.len
  | some (.illFormedProgram .operandFetchOutOfRange) => s.pc % 2 = 0 ∧ s.pc + 1 = s.len
  | some (.illFormedProgram .jumpTargetOutOfRange) =>
    s.pc % 2 = 0 ∧ s.a ≠ 0 ∧ s.program[s.pc]? = some 3 ∧
      ∃ o, s.program[s.pc + 1]? = some o ∧ s.len ≤ o.toNat

end Sys2Proof.Machine
end

