-- ==== Sys2Proof/Certificates/Slice0/Obligations.lean ====
section
/-! DEFINITION. The statements for the provers. Where a clause rests on a decision of the spec
(92_eei_decisions.md) or on a choice of the model, the docstring names it. -/

open Sys2Proof Sys2Proof.Machine

/-! ### Launch, status and what the host receives -/

/-- The model's choice (log entry 2): the state before any launch is the launch of the empty Program
with zero registers, and it is Halted. -/
def Obligations.ResetIsTheLaunchOfTheEmptyProgram : Prop :=
  State.reset = State.launch 0 0 0 [] ∧ State.reset.status = .halted

/-- R35: the launch values, the fault latch among them (decision D3). -/
def Obligations.LaunchBuildsTheStateSupplied : Prop :=
  ∀ (a0 b0 c0 : Nat) (p : List CodeWord),
    (State.launch a0 b0 c0 p).a = a0 ∧ (State.launch a0 b0 c0 p).b = b0 ∧
    (State.launch a0 b0 c0 p).c = c0 ∧ (State.launch a0 b0 c0 p).pc = 0 ∧
    (State.launch a0 b0 c0 p).out = [] ∧ (State.launch a0 b0 c0 p).fault = none ∧
    (State.launch a0 b0 c0 p).program = p

/-- R69, R171, decision D13: a launch given integers is accepted exactly when every register is at
least 0 and every word is in 0..7, whatever the length; what is launched is then exactly what was
given, nothing clamped or masked. -/
def Obligations.LaunchIsRefusedExactlyOutsideItsTypes : Prop :=
  ∀ (a0 b0 c0 : Int) (ws : List Int),
    ((∃ s, launchIntegers a0 b0 c0 ws = .ok s) ↔
      0 ≤ a0 ∧ 0 ≤ b0 ∧ 0 ≤ c0 ∧ ∀ w ∈ ws, 0 ≤ w ∧ w < 8) ∧
    ∀ s, launchIntegers a0 b0 c0 ws = .ok s →
      ∃ p, s = State.launch a0.toNat b0.toNat c0.toNat p ∧ p.map (fun w => (w.toNat : Int)) = ws

/-- R32, R80, decision D3: there is a next state exactly from a Running state. -/
def Obligations.AStepExistsExactlyWhenRunning : Prop :=
  ∀ s : State, (∃ t, step s = .next t) ↔ s.fault = none ∧ s.pc < s.len

/-- The model's choice of how a state without a step answers (log entry 4): a Faulted state hands
over its condition, a Halted one is refused by name. -/
def Obligations.TerminalStatesAnswerByName : Prop :=
  ∀ s : State,
    (∀ f, s.cause = some f → step s = .fault f) ∧
    (s.fault = none → s.len ≤ s.pc → step s = .refused .runHalted)

/-- R174 to R177, decisions D11 and D22: the result on halt, with the registers and without the pc;
the condition alone on a fault; nothing while running. -/
def Obligations.HostReceivesTheResultOrTheCondition : Prop :=
  ∀ s : State,
    (s.fault = none → s.len ≤ s.pc → s.hostView = .result s.out s.a s.b s.c) ∧
    (∀ f, s.cause = some f → s.hostView = .failed f) ∧
    (s.fault = none → s.pc < s.len → s.hostView = .inProgress)

/-- R81: a launch of the empty Program is over at once, with no output and its registers unchanged;
no other launch is. -/
def Obligations.EmptyProgramHaltsAtOnce : Prop :=
  ∀ (a0 b0 c0 : Nat) (p : List CodeWord),
    (State.launch a0 b0 c0 []).hostView = .result [] a0 b0 c0 ∧
    ((State.launch a0 b0 c0 p).status = .halted ↔ p = [])

/-- R149: a faulted run is over and takes no step, no instruction clears the latch, and a launch
starts with it clear. -/
def Obligations.NoReturnFromAFault : Prop :=
  (∀ (i : Instr) (s t : State), s.fault ≠ none → exec i s = .next t → t.fault ≠ none) ∧
  (∀ (s t : State) (f : Fault), s.cause = some f → step s ≠ .next t) ∧
  (∀ (s t : State) (f : Fault), s.cause = some f → Reaches s t → t = s) ∧
  (∀ (a0 b0 c0 : Nat) (p : List CodeWord), (State.launch a0 b0 c0 p).fault = none)

/-! ### Operands -/

/-- R85: the eight cases of combo resolution. -/
def Obligations.ComboResolvesLiteralsAndLiveRegisters : Prop :=
  ∀ s : State,
    s.combo 0 = some 0 ∧ s.combo 1 = some 1 ∧ s.combo 2 = some 2 ∧ s.combo 3 = some 3 ∧
    s.combo 4 = some s.a ∧ s.combo 5 = some s.b ∧ s.combo 6 = some s.c ∧ s.combo 7 = none

/-- R87: BXL and JNZ use the operand word as a number, 0 to 7, whatever the registers hold. (The
jump is to an address of the Program, so this clause needs no decision of the spec.) -/
def Obligations.LiteralOperandsAreNumbers : Prop :=
  ∀ (s : State) (o : CodeWord),
    exec (.bxl o) s = .next { s with b := s.b ^^^ o.toNat, pc := s.pc + 2 } ∧
    (s.a ≠ 0 → o.toNat < s.len → exec (.jnz o) s = .next { s with pc := o.toNat })

/-- R88: every operand word of opcode 4 gives the same behaviour, but the word is fetched: without
one the step raises the fault of R45. -/
def Obligations.BxcOperandIsFetchedAndIgnored : Prop :=
  ∀ s : State,
    (∀ o, s.AtPair 4 o → step s = .next { s with b := s.b ^^^ s.c, pc := s.pc + 2 }) ∧
    (s.fault = none → s.pc % 2 = 0 → s.program[s.pc]? = some 4 → s.program[s.pc + 1]? = none →
      Raises (step s) s (.illFormedProgram .operandFetchOutOfRange))

/-- R86: an instruction that reads the register it writes sees the old value. -/
def Obligations.SelfReferringDivisionsUseTheOldValue : Prop :=
  ∀ s : State,
    exec (.adv 4) s = .next { s with a := s.a / 2 ^ s.a, pc := s.pc + 2 } ∧
    exec (.bdv 5) s = .next { s with b := s.a / 2 ^ s.b, pc := s.pc + 2 } ∧
    exec (.cdv 6) s = .next { s with c := s.a / 2 ^ s.c, pc := s.pc + 2 } ∧
    exec (.bst 5) s = .next { s with b := s.b % 8, pc := s.pc + 2 }

/-! ### The instructions: result, everything else unchanged, and where they trap -/

/-- R100. -/
def Obligations.AdvDividesAIntoA : Prop :=
  ∀ (s : State) (o : CodeWord),
    (o ≠ 7 → decode 0 o = .ok (.adv o) ∧ ∃ n, s.combo o = some n ∧ s.a / 2 ^ n ≤ s.a ∧
      exec (.adv o) s = .next { s with a := s.a / 2 ^ n, pc := s.pc + 2 }) ∧
    exec (.adv 4) s = .next { s with a := 0, pc := s.pc + 2 } ∧
    (s.AtPair 0 7 → Raises (step s) s .malformedOperand)

/-- R101. -/
def Obligations.BdvDividesAIntoB : Prop :=
  ∀ (s : State) (o : CodeWord),
    (o ≠ 7 → decode 6 o = .ok (.bdv o) ∧ ∃ n, s.combo o = some n ∧
      exec (.bdv o) s = .next { s with b := s.a / 2 ^ n, pc := s.pc + 2 }) ∧
    exec (.bdv 0) s = .next { s with b := s.a, pc := s.pc + 2 } ∧
    exec (.bdv 4) s = .next { s with b := 0, pc := s.pc + 2 } ∧
    (s.AtPair 6 7 → Raises (step s) s .malformedOperand)

/-- R102. -/
def Obligations.CdvDividesAIntoC : Prop :=
  ∀ (s : State) (o : CodeWord),
    (o ≠ 7 → decode 7 o = .ok (.cdv o) ∧ ∃ n, s.combo o = some n ∧
      exec (.cdv o) s = .next { s with c := s.a / 2 ^ n, pc := s.pc + 2 }) ∧
    exec (.cdv 0) s = .next { s with c := s.a, pc := s.pc + 2 } ∧
    (s.AtPair 7 7 → Raises (step s) s .malformedOperand)

/-- R110: only bits 2..0 of B can change, and the same BXL twice restores B. -/
def Obligations.BxlXorsALiteralIntoB : Prop :=
  ∀ (s : State) (o : CodeWord), decode 1 o = .ok (.bxl o) ∧
    ∃ t, exec (.bxl o) s = .next t ∧ t = { s with b := s.b ^^^ o.toNat, pc := s.pc + 2 } ∧
      t.b / 8 = s.b / 8 ∧ t.b % 8 = (s.b % 8) ^^^ o.toNat ∧
      exec (.bxl o) t = .next { s with pc := s.pc + 4 }

/-- R111. -/
def Obligations.BstPutsTheLowDigitIntoB : Prop :=
  ∀ (s : State) (o : CodeWord),
    (o ≠ 7 → decode 2 o = .ok (.bst o) ∧ ∃ n, s.combo o = some n ∧
      exec (.bst o) s = .next { s with b := n % 8, pc := s.pc + 2 }) ∧
    (s.AtPair 2 7 → Raises (step s) s .malformedOperand)

/-- R112: bit by bit, unreduced, for every operand word; the operand word must exist (R45). -/
def Obligations.BxcXorsCIntoB : Prop :=
  ∀ s : State,
    (∀ o, decode 4 o = .ok .bxc) ∧
    (∃ t, exec .bxc s = .next t ∧ t = { s with b := s.b ^^^ s.c, pc := s.pc + 2 } ∧
      (∀ k, t.b.testBit k = (s.b.testBit k != s.c.testBit k)) ∧
      (s.b = s.c → t.b = 0) ∧ (s.c = 0 → t.b = s.b)) ∧
    (s.fault = none → s.pc % 2 = 0 → s.pc + 1 = s.len → s.program[s.pc]? = some 4 →
      Raises (step s) s (.illFormedProgram .operandFetchOutOfRange))

/-- R130: one element, in 0..7, at the end. -/
def Obligations.OutAppendsTheLowDigit : Prop :=
  ∀ (s : State) (o : CodeWord),
    (o ≠ 7 → decode 5 o = .ok (.out o) ∧ ∃ n v, s.combo o = some n ∧ v.toNat = n % 8 ∧
      exec (.out o) s = .next { s with out := s.out ++ [v], pc := s.pc + 2 }) ∧
    (s.AtPair 5 7 → Raises (step s) s .malformedOperand)

/-- R120, with its raise clause, which rests on decision D5 (log entry 7). -/
def Obligations.JnzJumpsOrFallsThrough : Prop :=
  ∀ (s : State) (o : CodeWord), decode 3 o = .ok (.jnz o) ∧
    (s.a = 0 → exec (.jnz o) s = .next { s with pc := s.pc + 2 }) ∧
    (s.a ≠ 0 → o.toNat < s.len → exec (.jnz o) s = .next { s with pc := o.toNat }) ∧
    (s.a ≠ 0 → s.len ≤ o.toNat →
      Raises (exec (.jnz o) s) s (.illFormedProgram .jumpTargetOutOfRange))

/-- R121, decisions D4 and D5 (log entries 6, 7): what follows a taken jump, row by row. -/
def Obligations.TakenJumpTargetsRowByRow : Prop :=
  ∀ (s : State) (o : CodeWord), s.AtPair 3 o → s.a ≠ 0 →
    if s.len ≤ o.toNat then Raises (step s) s (.illFormedProgram .jumpTargetOutOfRange)
    else ∃ t, step s = .next t ∧ t = { s with pc := o.toNat } ∧
      if o.toNat % 2 = 1 then Raises (step t) t (.illFormedProgram .misalignedIP)
      else if o.toNat + 1 = s.len then
        Raises (step t) t (.illFormedProgram .operandFetchOutOfRange)
      else ∃ op p, t.AtPair op p ∧ s.program[o.toNat]? = some op ∧
        s.program[o.toNat + 1]? = some p

/-- R104: a quotient by `2^n` is 0 whenever `2^n` is above A, however large `n` is. -/
def Obligations.LargeExponentsGiveZero : Prop :=
  ∀ (s : State) (o : CodeWord) (n : Nat), s.combo o = some n → s.a < 2 ^ n →
    exec (.adv o) s = .next { s with a := 0, pc := s.pc + 2 } ∧
    exec (.bdv o) s = .next { s with b := 0, pc := s.pc + 2 } ∧
    exec (.cdv o) s = .next { s with c := 0, pc := s.pc + 2 }

/-- R103's law `(a div 2^m) div 2^n = a div 2^(m+n)`, on two ADV with literal operands. -/
def Obligations.SuccessiveAdvAddTheirExponents : Prop :=
  ∀ (s : State) (m n : CodeWord), m.toNat < 4 → n.toNat < 4 →
    ∃ t, exec (.adv m) s = .next t ∧
      exec (.adv n) t = .next { s with a := s.a / 2 ^ (m.toNat + n.toNat), pc := s.pc + 4 }

/-! ### Encoding -/

/-- Words written out from R61 and R65 decode to what they stand for. -/
def Obligations.WordsFromTheTableDecode : Prop :=
  decode 0b000 0b101 = .ok (.adv 5) ∧ decode 0b001 0b111 = .ok (.bxl 7) ∧
  decode 0b010 0b110 = .ok (.bst 6) ∧ decode 0b011 0b111 = .ok (.jnz 7) ∧
  decode 0b100 0b111 = .ok .bxc ∧ decode 0b101 0b100 = .ok (.out 4) ∧
  decode 0b110 0b010 = .ok (.bdv 2) ∧ decode 0b111 0b011 = .ok (.cdv 3) ∧
  decode 0b101 0b111 = .error (.comboOperandSeven 5)

/-- R66, R67: five illegal pairs and no more, 59 legal ones. -/
def Obligations.ExactlyFivePairsAreIllegal : Prop :=
  (∀ p q : CodeWord, (∃ r, decode p q = .error r) ↔ q = 7 ∧ p ∈ [0, 2, 5, 6, 7]) ∧
  ((List.finRange 64).filter fun w => (decodeTableWord 6 w).isSome).length = 59

/-- R60, R65, R68: every well-formed instruction is read back from its words; what a pair of words
decodes to is well formed and, but for BXC's ignored operand, encodes to those words. -/
def Obligations.DecodeAndEncodeAgree : Prop :=
  (∀ i : Instr, i.wellFormed = true → decode (encode i).1 (encode i).2 = .ok i) ∧
  ∀ (p q : CodeWord) (i : Instr), decode p q = .ok i →
    i.wellFormed = true ∧ (i ≠ .bxc → encode i = (p, q)) ∧ (i = .bxc → p = 4)

/-- R13, R60, R62: a list of well-formed instructions is read back from its words, whole, and only a
list of well-formed instructions has words that read back so. -/
def Obligations.ProgramsAreReadBackFromTheirWords : Prop :=
  (∀ is : List Instr,
    (∀ i ∈ is, i.wellFormed = true) ↔ decodeProgram (encodeProgram is) = .ok is) ∧
  ∀ (p : List CodeWord) (is : List Instr), decodeProgram p = .ok is →
    p.length = 2 * is.length ∧ ∀ k i, is[k]? = some i →
      ∃ op o, p[2 * k]? = some op ∧ p[2 * k + 1]? = some o ∧ decode op o = .ok i

/-- R25, R60, R62, R80: in a Program made of instructions, the step at the address of the k-th pair
runs the k-th instruction. -/
def Obligations.StepRunsTheInstructionAtItsPair : Prop :=
  ∀ (s : State) (is : List Instr) (k : Nat) (i : Instr),
    (∀ j ∈ is, j.wellFormed = true) → s.program = encodeProgram is → s.fault = none →
    s.pc = 2 * k → is[k]? = some i → step s = exec i s

/-! ### The step -/

/-- R80, R82, R83: when the pair at `pc` decodes to `i`, the step is `i` and nothing is around it. -/
def Obligations.StepRunsTheDecodedInstruction : Prop :=
  ∀ (s : State) (op o : CodeWord) (i : Instr),
    s.AtPair op o → decode op o = .ok i → step s = exec i s

/-- R141, R142, R44, R45, R121; decisions D4, D5, D7 and D10 (log entries 6, 7, 8, 10): a step from a
Running state raises each condition exactly on its own cause. -/
def Obligations.EachFaultIsRaisedExactlyOnItsCause : Prop :=
  ∀ s : State, s.fault = none → s.pc < s.len →
    (Raises (step s) s .malformedOperand ↔ ∃ op ∈ [0, 2, 5, 6, 7], s.AtPair op 7) ∧
    (Raises (step s) s (.illFormedProgram .misalignedIP) ↔ s.pc % 2 = 1) ∧
    (Raises (step s) s (.illFormedProgram .operandFetchOutOfRange) ↔
      s.pc % 2 = 0 ∧ s.pc + 1 = s.len) ∧
    (Raises (step s) s (.illFormedProgram .jumpTargetOutOfRange) ↔
      ∃ o, s.AtPair 3 o ∧ s.a ≠ 0 ∧ s.len ≤ o.toNat)

/-- R147, R148; decision D9 (log entry 9): a faulting step changes the latch alone, the state it
leaves has no step, and the host receives the condition. -/
def Obligations.FaultsArePrecise : Prop :=
  ∀ s t : State, step s = .next t → t.fault ≠ none →
    t = { s with fault := t.fault } ∧ (∀ u, step t ≠ .next u) ∧
      ∃ f, t.cause = some f ∧ t.hostView = .failed f

/-- R143, decision D8: what the latch records of a fault, and the code it shows. -/
def Obligations.LatchRecordsPcAndWord : Prop :=
  (∀ (s t : State) (r : FaultRecord), step s = .next t → t.fault = some r →
    r.info.pc = s.pc ∧ r.info.word = match r.cause with
      | .malformedOperand => s.program[s.pc]?
      | .illFormedProgram .jumpTargetOutOfRange => s.program[s.pc + 1]?
      | .illFormedProgram .misalignedIP => none
      | .illFormedProgram .operandFetchOutOfRange => none) ∧
  ∀ s : State, (s.faultCode = 0 ↔ s.fault = none) ∧
    (s.faultCode = 1 ↔ s.cause = some .malformedOperand) ∧
    (s.faultCode = 2 ↔ ∃ k, s.cause = some (.illFormedProgram k))

/-- R28, R44, R121, decisions D4 and D5 (log entries 6, 7): the only step that leaves an odd `pc` and
no fault is a taken JNZ with an odd operand inside the Program, from an even `pc`. That a step at an
odd `pc` faults, so that no other source exists, is D4; that the operand is below `L` is D5. -/
def Obligations.OddPcComesOnlyFromATakenOddJump : Prop :=
  ∀ s t : State, step s = .next t → t.fault = none → t.pc % 2 = 1 →
    ∃ o, s.AtPair 3 o ∧ s.a ≠ 0 ∧ o.toNat % 2 = 1 ∧ o.toNat < s.len ∧ t = { s with pc := o.toNat }

/-! ### What holds of every instruction -/

/-- The model's choice (log entry 16): `exec` answers a next state for every term of `Instr`, a combo
constructor with operand 7 among them, and in every state, Halted and Faulted ones among them. The
spec gives a step to Running states only (R32), and `step` alone tests for that. -/
def Obligations.EveryInstructionAnswersANextState : Prop :=
  ∀ (i : Instr) (s : State), ∃ t, exec i s = .next t

/-- R84: `pc` advances by 2 unless the instruction is a taken JNZ, which sets it and does not advance.
The instructions are the well-formed ones, those a pair of words decodes to. (A next state whose
latch is set is a fault, not an advance: R147.) -/
def Obligations.PcAdvancesByTwoUnlessAJumpIsTaken : Prop :=
  ∀ (i : Instr) (s : State), i.wellFormed = true → s.fault = none →
    ∃ t, exec i s = .next t ∧ (t.fault = none →
    (∀ o, i = .jnz o → s.a ≠ 0 → t.pc = o.toNat) ∧
    ((∀ o, i ≠ .jnz o) ∨ s.a = 0 → t.pc = s.pc + 2))

/-- R23, R30, R46, R53: the frame of every instruction. Every register but the one R23 names is
unchanged, the output is unchanged but by OUT, and every address of the Program reads as before. The
latch changes only by a combo operand 7 (in `exec`: log entry 16) or a taken jump out of range
(decision D5, log entry 7), and then nothing else does. -/
def Obligations.FrameOfEveryInstruction : Prop :=
  ∀ (i : Instr) (s t : State), exec i s = .next t →
    (∀ r, writesReg i ≠ some r → t.reg r = s.reg r) ∧
    (isOut i = false → t.out = s.out) ∧
    (∀ addr, t.memRead addr = s.memRead addr) ∧ t.len = s.len ∧
    (t.fault ≠ s.fault → t = { s with fault := t.fault } ∧
      (i.wellFormed = false ∨ ∃ o, i = .jnz o ∧ s.a ≠ 0 ∧ s.len ≤ o.toNat))

/-- R23, read side: a register that an instruction does not read has no influence on it; it is kept
where the instruction does not write it, and where a combo operand 7 raises instead (log entry 16). -/
def Obligations.UnreadRegistersHaveNoInfluence : Prop :=
  ∀ (i : Instr) (r : Reg) (v : Nat) (s : State), readsReg i r = false →
    exec i (s.writeReg r v) =
      if writesReg i = some r ∧ i.wellFormed = true then exec i s
      else mapNext (fun t => t.writeReg r v) (exec i s)

/-! ### What holds of every step and every run -/

/-- R30, R131: no step reads the output: words put before it change nothing else. -/
def Obligations.OutputIsNeverRead : Prop :=
  ∀ (s : State) (pre : List CodeWord),
    step { s with out := pre ++ s.out } =
      mapNext (fun t => { t with out := pre ++ t.out }) (step s)

/-- R47, R83, R66: a step depends on the Program only through its length and the two words at `pc`
and `pc + 1`. -/
def Obligations.OnlyTheFetchedPairIsRead : Prop :=
  ∀ (s : State) (p : List CodeWord), p.length = s.program.length →
    p[s.pc]? = s.program[s.pc]? → p[s.pc + 1]? = s.program[s.pc + 1]? →
    step { s with program := p } = mapNext (fun t => { t with program := p }) (step s)

/-- R30: a step leaves the output or is an OUT, which adds one element at its end; a run only adds
at the end. That the OUT stands at an even `pc` is decision D4 (log entry 6). -/
def Obligations.OutputOnlyGrows : Prop :=
  (∀ s t : State, step s = .next t → t.out = s.out ∨
    ∃ o n v, s.AtPair 5 o ∧ s.combo o = some n ∧ v.toNat = n % 8 ∧ t.out = s.out ++ [v]) ∧
  ∀ s t : State, Reaches s t → ∃ added, t.out = s.out ++ added

/-- R40, R53: the Program does not change during a run. -/
def Obligations.ProgramNeverChanges : Prop :=
  ∀ s t : State, Reaches s t → t.program = s.program

/-- R100, R23: register A never grows, and a step that changes it is an ADV (at an even `pc`: decision
D4, log entry 6). -/
def Obligations.RegisterANeverGrows : Prop :=
  (∀ s t : State, step s = .next t → t.a ≠ s.a →
    ∃ o n, s.AtPair 0 o ∧ s.combo o = some n ∧ t.a = s.a / 2 ^ n) ∧
  ∀ s t : State, Reaches s t → t.a ≤ s.a

/-- R123: after a step that neither advances nor faults, `pc` is one of 0 to 7, put there by a taken
JNZ (at an even `pc`: decision D4, log entry 6). -/
def Obligations.JumpsReachOnlyAddressesZeroToSeven : Prop :=
  ∀ s t : State, step s = .next t → t.fault = none → t.pc ≠ s.pc + 2 →
    t.pc ≤ 7 ∧ s.a ≠ 0 ∧ ∃ o, s.AtPair 3 o ∧ t.pc = o.toNat

/-- R120, R89: a JNZ at its own target with A not 0 jumps to itself for ever. -/
def Obligations.JumpToItselfNeverEnds : Prop :=
  ∀ (s : State) (o : CodeWord), s.AtPair 3 o → o.toNat = s.pc → s.a ≠ 0 →
    step s = .next s ∧ (∀ k, Sys2Proof.core.run k s = .next s) ∧
      ∀ t, Reaches s t → t = s ∧ t.status = .running

/-- R27, decision D5: every step keeps `pc` inside the Program or at its end. -/
def Obligations.EveryStepKeepsPcInRange : Prop :=
  ∀ s t : State, s.PcInRange → step s = .next t → t.PcInRange

/-- R141, R142, R147: every step keeps the latch explained by the state that holds it. -/
def Obligations.EveryStepKeepsTheLatchExplained : Prop :=
  ∀ s t : State, s.LatchExplained → step s = .next t → t.LatchExplained

/-- R45's consequence, which the spec derives from R44, R80 and R121 (decision D5): no step of a
Program of odd length reaches its end. -/
def Obligations.EveryStepOfAnOddProgramStaysBeforeItsEnd : Prop :=
  ∀ s t : State, s.BeforeOddEnd → step s = .next t → t.BeforeOddEnd

/-- The three invariants hold at reset, and at every launch (that of the odd end: of an odd-length
Program). -/
def Obligations.InvariantsHoldAtLaunch : Prop :=
  State.reset.PcInRange ∧ State.reset.LatchExplained ∧
  ∀ (a0 b0 c0 : Nat) (p : List CodeWord),
    (State.launch a0 b0 c0 p).PcInRange ∧ (State.launch a0 b0 c0 p).LatchExplained ∧
    (p.length % 2 = 1 → (State.launch a0 b0 c0 p).BeforeOddEnd)

/-- R27, R81, decision D5: in every state of every run from a launch, `pc` is at most `L`, a halt is
at exactly `L`, and an instruction is executed only from an even `pc` with both words in range. -/
def Obligations.RunsStayInTheProgramAndHaltAtItsEnd : Prop :=
  ∀ (a0 b0 c0 : Nat) (p : List CodeWord) (s : State), Reaches (State.launch a0 b0 c0 p) s →
    s.pc ≤ p.length ∧ (s.status = .halted → s.pc = p.length) ∧
    ∀ i, s.fetchInstr = .ok i → s.pc % 2 = 0 ∧ s.pc + 1 < p.length

/-- R45, derived there: a run of an odd-length Program never ends Halted; where it ends, it ends with
a fault. -/
def Obligations.OddLengthRunsNeverHalt : Prop :=
  ∀ (a0 b0 c0 : Nat) (p : List CodeWord) (s : State), p.length % 2 = 1 →
    Reaches (State.launch a0 b0 c0 p) s →
    s.status ≠ .halted ∧ ((∀ t, step s ≠ .next t) → ∃ f, s.hostView = .failed f)

/-! ### What a combo meaning does with operand 7 -/

/-- The model's choice (log entry 16): the spec raises `MalformedOperand` at decode, and leaves open
what the meaning of a combo opcode does when given operand 7 (R85). Here each one takes that same
fault, in every state, changing the latch alone; so at a pair with operand 7, where decoding raises
it, the meaning would have answered exactly what the step answers. -/
def Obligations.ComboMeaningsTakeTheFaultOnOperandSeven : Prop :=
  ∀ s : State,
    (Raises (exec (.adv 7) s) s .malformedOperand ∧ (s.AtPair 0 7 → step s = exec (.adv 7) s)) ∧
    (Raises (exec (.bst 7) s) s .malformedOperand ∧ (s.AtPair 2 7 → step s = exec (.bst 7) s)) ∧
    (Raises (exec (.out 7) s) s .malformedOperand ∧ (s.AtPair 5 7 → step s = exec (.out 7) s)) ∧
    (Raises (exec (.bdv 7) s) s .malformedOperand ∧ (s.AtPair 6 7 → step s = exec (.bdv 7) s)) ∧
    (Raises (exec (.cdv 7) s) s .malformedOperand ∧ (s.AtPair 7 7 → step s = exec (.cdv 7) s))
end

