-- ==== Sys2Proof/Laws/State.lean ====
section
/-! SUPPORT. One lemma per field of `State` per update, each true by `rfl`. -/

namespace Sys2Proof.Machine.State

variable (s : State)

@[simp] theorem writeReg_A_a (v : Nat) :
    (s.writeReg .A v).a = v := rfl
@[simp] theorem writeReg_A_b (v : Nat) :
    (s.writeReg .A v).b = s.b := rfl
@[simp] theorem writeReg_A_c (v : Nat) :
    (s.writeReg .A v).c = s.c := rfl
@[simp] theorem writeReg_A_pc (v : Nat) :
    (s.writeReg .A v).pc = s.pc := rfl
@[simp] theorem writeReg_A_out (v : Nat) :
    (s.writeReg .A v).out = s.out := rfl
@[simp] theorem writeReg_A_fault (v : Nat) :
    (s.writeReg .A v).fault = s.fault := rfl
@[simp] theorem writeReg_A_program (v : Nat) :
    (s.writeReg .A v).program = s.program := rfl

@[simp] theorem writeReg_B_a (v : Nat) :
    (s.writeReg .B v).a = s.a := rfl
@[simp] theorem writeReg_B_b (v : Nat) :
    (s.writeReg .B v).b = v := rfl
@[simp] theorem writeReg_B_c (v : Nat) :
    (s.writeReg .B v).c = s.c := rfl
@[simp] theorem writeReg_B_pc (v : Nat) :
    (s.writeReg .B v).pc = s.pc := rfl
@[simp] theorem writeReg_B_out (v : Nat) :
    (s.writeReg .B v).out = s.out := rfl
@[simp] theorem writeReg_B_fault (v : Nat) :
    (s.writeReg .B v).fault = s.fault := rfl
@[simp] theorem writeReg_B_program (v : Nat) :
    (s.writeReg .B v).program = s.program := rfl

@[simp] theorem writeReg_C_a (v : Nat) :
    (s.writeReg .C v).a = s.a := rfl
@[simp] theorem writeReg_C_b (v : Nat) :
    (s.writeReg .C v).b = s.b := rfl
@[simp] theorem writeReg_C_c (v : Nat) :
    (s.writeReg .C v).c = v := rfl
@[simp] theorem writeReg_C_pc (v : Nat) :
    (s.writeReg .C v).pc = s.pc := rfl
@[simp] theorem writeReg_C_out (v : Nat) :
    (s.writeReg .C v).out = s.out := rfl
@[simp] theorem writeReg_C_fault (v : Nat) :
    (s.writeReg .C v).fault = s.fault := rfl
@[simp] theorem writeReg_C_program (v : Nat) :
    (s.writeReg .C v).program = s.program := rfl

@[simp] theorem advance_a :
    (s.advance).a = s.a := rfl
@[simp] theorem advance_b :
    (s.advance).b = s.b := rfl
@[simp] theorem advance_c :
    (s.advance).c = s.c := rfl
@[simp] theorem advance_pc :
    (s.advance).pc = s.pc + 2 := rfl
@[simp] theorem advance_out :
    (s.advance).out = s.out := rfl
@[simp] theorem advance_fault :
    (s.advance).fault = s.fault := rfl
@[simp] theorem advance_program :
    (s.advance).program = s.program := rfl

@[simp] theorem jump_a (t : Nat) :
    (s.jump t).a = s.a := rfl
@[simp] theorem jump_b (t : Nat) :
    (s.jump t).b = s.b := rfl
@[simp] theorem jump_c (t : Nat) :
    (s.jump t).c = s.c := rfl
@[simp] theorem jump_pc (t : Nat) :
    (s.jump t).pc = t := rfl
@[simp] theorem jump_out (t : Nat) :
    (s.jump t).out = s.out := rfl
@[simp] theorem jump_fault (t : Nat) :
    (s.jump t).fault = s.fault := rfl
@[simp] theorem jump_program (t : Nat) :
    (s.jump t).program = s.program := rfl

@[simp] theorem appendOut_a (v : CodeWord) :
    (s.appendOut v).a = s.a := rfl
@[simp] theorem appendOut_b (v : CodeWord) :
    (s.appendOut v).b = s.b := rfl
@[simp] theorem appendOut_c (v : CodeWord) :
    (s.appendOut v).c = s.c := rfl
@[simp] theorem appendOut_pc (v : CodeWord) :
    (s.appendOut v).pc = s.pc := rfl
@[simp] theorem appendOut_out (v : CodeWord) :
    (s.appendOut v).out = s.out ++ [v] := rfl
@[simp] theorem appendOut_fault (v : CodeWord) :
    (s.appendOut v).fault = s.fault := rfl
@[simp] theorem appendOut_program (v : CodeWord) :
    (s.appendOut v).program = s.program := rfl

@[simp] theorem raise_a (f : Fault) (x : FaultInfo) :
    (s.raise f x).a = s.a := rfl
@[simp] theorem raise_b (f : Fault) (x : FaultInfo) :
    (s.raise f x).b = s.b := rfl
@[simp] theorem raise_c (f : Fault) (x : FaultInfo) :
    (s.raise f x).c = s.c := rfl
@[simp] theorem raise_pc (f : Fault) (x : FaultInfo) :
    (s.raise f x).pc = s.pc := rfl
@[simp] theorem raise_out (f : Fault) (x : FaultInfo) :
    (s.raise f x).out = s.out := rfl
@[simp] theorem raise_fault (f : Fault) (x : FaultInfo) :
    (s.raise f x).fault = some { cause := f, info := x } := rfl
@[simp] theorem raise_program (f : Fault) (x : FaultInfo) :
    (s.raise f x).program = s.program := rfl

@[simp] theorem reg_A : s.reg .A = s.a := rfl
@[simp] theorem reg_B : s.reg .B = s.b := rfl
@[simp] theorem reg_C : s.reg .C = s.c := rfl

@[simp] theorem raise_cause (f : Fault) (x : FaultInfo) : (s.raise f x).cause = some f := rfl

/-- A write is read back (R21). -/
@[simp] theorem writeReg_reg_same (r : Reg) (v : Nat) : (s.writeReg r v).reg r = v := by
  cases r <;> rfl

/-- A write to one register never changes another (R21). -/
theorem writeReg_reg_ne {r q : Reg} (h : q ≠ r) (v : Nat) : (s.writeReg r v).reg q = s.reg q := by
  cases r <;> cases q <;> first | rfl | exact absurd rfl h

/-- No register write touches the instruction pointer, the output, the latch or the Program. -/
theorem writeReg_rest (r : Reg) (v : Nat) :
    (s.writeReg r v).pc = s.pc ∧ (s.writeReg r v).out = s.out ∧
      (s.writeReg r v).fault = s.fault ∧ (s.writeReg r v).program = s.program := by
  cases r <;> exact ⟨rfl, rfl, rfl, rfl⟩

end Sys2Proof.Machine.State
end

