-- ==== Sys2Proof/Laws/Ops.lean ====
section
/-! SUPPORT. For each shared operation, one lemma that says what it can do. -/

namespace Sys2Proof

/-- A code word is one of eight values (R7). -/
theorem codeWord_cases (o : CodeWord) :
    o = 0 ∨ o = 1 ∨ o = 2 ∨ o = 3 ∨ o = 4 ∨ o = 5 ∨ o = 6 ∨ o = 7 := by
  revert o; decide

theorem comboLegal_iff (o : CodeWord) : CodeWord.comboLegal o = true ↔ o ≠ 7 := by
  simp [CodeWord.comboLegal]

/-- A combo row decodes exactly when its operand is not 7 (R68). -/
theorem decodeCombo_ok_iff {opcode operand : CodeWord} {mk : CodeWord → Instr} {i : Instr} :
    decodeCombo opcode operand mk = .ok i ↔ operand ≠ 7 ∧ i = mk operand := by
  unfold decodeCombo
  split
  · rename_i h
    exact ⟨fun e => ⟨(comboLegal_iff operand).1 h, by cases e; rfl⟩, fun e => by rw [e.2]⟩
  · rename_i h
    exact ⟨nofun, fun e => absurd ((comboLegal_iff operand).2 e.1) h⟩

namespace Machine

/-- The shift is the quotient by a power of two (R10, R104). -/
theorem divPow2_eq_div (a n : Nat) : divPow2 a n = a / 2 ^ n := Nat.shiftRight_eq_div_pow a n

theorem lowDigitWord_toNat (v : Nat) : (lowDigitWord v).toNat = v % 8 := by
  simp [lowDigitWord, lowDigit]

/-- Reading an address below `L` gives its word; no other address holds one (R48). -/
theorem State.memRead_eq_none_iff (s : State) (addr : Nat) :
    s.memRead addr = none ↔ s.len ≤ addr := by
  simp [State.memRead]

/-- Combo resolution has no value exactly at operand 7 (R85). -/
theorem State.combo_eq_none_iff (s : State) (o : CodeWord) : s.combo o = none ↔ o = 7 := by
  rcases codeWord_cases o with rfl | rfl | rfl | rfl | rfl | rfl | rfl | rfl <;> simp [State.combo]

/-- Combo resolution looks at the three registers only (R85). -/
theorem State.combo_congr {s t : State} (ha : s.a = t.a) (hb : s.b = t.b) (hc : s.c = t.c)
    (o : CodeWord) : s.combo o = t.combo o := by
  unfold State.combo
  simp only [State.reg_A, State.reg_B, State.reg_C, ha, hb, hc]

/-- What an instruction with a combo operand answers: its effect on the resolved value, or
`MalformedOperand` at operand 7. -/
theorem State.withCombo_cases (s : State) (opcode o : CodeWord) (effect : Nat → State) :
    (∃ n, o ≠ 7 ∧ s.combo o = some n ∧ s.withCombo opcode o effect = .next (effect n)) ∨
      (o = 7 ∧ s.withCombo opcode o effect = .next (s.raiseMalformed opcode)) := by
  unfold State.withCombo
  cases h : s.combo o with
  | none => exact .inr ⟨(s.combo_eq_none_iff o).1 h, rfl⟩
  | some n =>
    refine .inl ⟨n, fun h7 => ?_, rfl, rfl⟩
    rw [(s.combo_eq_none_iff o).2 h7] at h
    cases h

/-- A fetch gives an instruction exactly when `pc` is even and both its words exist and decode. -/
theorem State.fetchInstr_ok_iff {s : State} {i : Instr} :
    s.fetchInstr = .ok i ↔ s.pc % 2 = 0 ∧ ∃ opcode operand,
      s.memRead s.pc = some opcode ∧ s.memRead (s.pc + 1) = some operand ∧
        decode opcode operand = .ok i := by
  unfold State.fetchInstr
  by_cases hp : s.pc % 2 = 1
  · simp [hp]
  · rw [if_neg hp]
    have hp0 : s.pc % 2 = 0 := by omega
    cases h1 : s.memRead s.pc with
    | none => simp
    | some op =>
      cases h2 : s.memRead (s.pc + 1) with
      | none => simp
      | some o => cases h3 : decode op o <;> simp [hp0, h3]

/-- The three ways a fetch raises a fault, in the order of the checks (R146). -/
theorem State.fetchInstr_error_cases {s t : State} (h : s.fetchInstr = .error t) :
    (s.pc % 2 = 1 ∧ t = s.raiseMisaligned) ∨
      (s.pc % 2 = 0 ∧ s.len ≤ s.pc + 1 ∧ t = s.raiseOperandFetch) ∨
      (s.pc % 2 = 0 ∧ ∃ opcode operand r, s.memRead s.pc = some opcode ∧
        s.memRead (s.pc + 1) = some operand ∧ decode opcode operand = .error r ∧
        t = s.raiseMalformed opcode) := by
  unfold State.fetchInstr at h
  by_cases hp : s.pc % 2 = 1
  · rw [if_pos hp] at h
    cases h
    exact .inl ⟨hp, rfl⟩
  · rw [if_neg hp] at h
    have hp0 : s.pc % 2 = 0 := by omega
    refine .inr ?_
    cases h1 : s.memRead s.pc with
    | none =>
      rw [h1] at h
      cases h
      exact .inl ⟨hp0, by have := (s.memRead_eq_none_iff s.pc).1 h1; omega, rfl⟩
    | some op =>
      cases h2 : s.memRead (s.pc + 1) with
      | none =>
        rw [h1, h2] at h
        cases h
        exact .inl ⟨hp0, (s.memRead_eq_none_iff _).1 h2, rfl⟩
      | some o =>
        simp only [h1, h2] at h
        cases h3 : decode op o with
        | ok i => simp only [h3] at h; cases h
        | error r =>
          simp only [h3] at h
          cases h
          exact .inr ⟨hp0, op, o, r, rfl, rfl, h3, rfl⟩

/-- What can stand behind a next state: a Running state, and a fetch that raised or an instruction
that ran. -/
theorem step_next_cases {s t : State} (h : step s = .next t) :
    s.status = .running ∧
      (s.fetchInstr = .error t ∨ ∃ i, s.fetchInstr = .ok i ∧ exec i s = .next t) := by
  unfold step at h
  cases hs : s.status with
  | faulted f => rw [hs] at h; cases h
  | halted => rw [hs] at h; cases h
  | running =>
    rw [hs] at h
    refine ⟨rfl, ?_⟩
    cases hf : s.fetchInstr with
    | error u =>
      rw [hf] at h
      cases h
      exact .inl rfl
    | ok i =>
      rw [hf] at h
      exact .inr ⟨i, rfl, h⟩

/-- An induction over runs, packaged once: what holds at the start and every step keeps holds of
every state reached. -/
theorem Reaches.keeps {P : State → Prop} (hstep : ∀ s t, P s → step s = .next t → P t) {s t : State}
    (hr : Reaches s t) (h : P s) : P t := by
  induction hr with
  | refl => exact h
  | tail _ hs ih => exact hstep _ _ ih hs

end Machine

end Sys2Proof
end

