-- ==== Sys2Proof/Laws/PerInstr.lean ====
section
/-! SUPPORT. Statements for all instructions, one lemma per constructor. -/

namespace Sys2Proof.Laws.TableRow

/-- The row of the opcode map that holds the words of an instruction is the row of its mnemonic and
of its operand class, and no other row holds them (R65, R64). -/
def Statement (i : Instr) : Prop :=
  opcodeTable.filter (fun r => r.holds (pairView (encode i).1 (encode i).2)) =
    opcodeTable.filter (fun r => r.mnemonic == i.mnemonic && r.operandClass == i.operandClass)

theorem adv (o : CodeWord) : Statement (.adv o) := by revert o; unfold Statement; decide
theorem bxl (o : CodeWord) : Statement (.bxl o) := by revert o; unfold Statement; decide
theorem bst (o : CodeWord) : Statement (.bst o) := by revert o; unfold Statement; decide
theorem jnz (o : CodeWord) : Statement (.jnz o) := by revert o; unfold Statement; decide
theorem bxc : Statement .bxc := by unfold Statement; decide
theorem out (o : CodeWord) : Statement (.out o) := by revert o; unfold Statement; decide
theorem bdv (o : CodeWord) : Statement (.bdv o) := by revert o; unfold Statement; decide
theorem cdv (o : CodeWord) : Statement (.cdv o) := by revert o; unfold Statement; decide

end Sys2Proof.Laws.TableRow
end

