-- ==== Sys2Proof/Tests/Slice0.lean ====
section
/-! SUPPORT. Tests of single steps against the spec's vectors (95_test_vectors.md, named in each
comment), decoding words written out from the encoding tables (R61, R65), ill-formed terms, and for
each statement with hypotheses a witness that meets them. -/

namespace Sys2Proof.Tests

open Sys2Proof.Machine

/-- The state after one step, if there is one. -/
def after (s : State) : Option State :=
  match step s with
  | .next t => some t
  | _ => none

/-- Registers, pc and output after one step from a launch. -/
def oneStep (a b c : Nat) (p : List CodeWord) : Option (Nat × Nat × Nat × Nat × List CodeWord) :=
  (after (State.launch a b c p)).map fun t => (t.a, t.b, t.c, t.pc, t.out)

/-- The condition latched by one step. -/
def causeAfter (s : State) : Option Fault := (after s).bind State.cause

/-- The codes shown with no fault, after `OUT 7`, and after a jump past the end. -/
def faultCodes : Nat × Nat × Nat :=
  (State.reset.faultCode, (State.reset.raiseMalformed 5).faultCode,
    (State.reset.raiseJumpTarget 2).faultCode)

/-! ### Well-formedness: an ill-formed term for each check (R66) -/

theorem test_illFormed_adv : (Instr.adv 7).wellFormed = false := by decide
theorem test_illFormed_bst : (Instr.bst 7).wellFormed = false := by decide
theorem test_illFormed_out : (Instr.out 7).wellFormed = false := by decide
theorem test_illFormed_bdv : (Instr.bdv 7).wellFormed = false := by decide
theorem test_illFormed_cdv : (Instr.cdv 7).wellFormed = false := by decide
theorem test_wellFormed_literal_seven :
    (Instr.bxl 7).wellFormed = true ∧ (Instr.jnz 7).wellFormed = true := by decide

/-! ### Decoding: words written out from R65, operand in bits 2..0 -/

theorem test_decode_adv : decodeTableWord 6 0b000101 = some (.adv 5) := by decide
theorem test_decode_bxl : decodeTableWord 6 0b001111 = some (.bxl 7) := by decide
theorem test_decode_bst : decodeTableWord 6 0b010110 = some (.bst 6) := by decide
theorem test_decode_jnz : decodeTableWord 6 0b011100 = some (.jnz 4) := by decide
theorem test_decode_bxc : decodeTableWord 6 0b100011 = some .bxc := by decide
theorem test_decode_out : decodeTableWord 6 0b101100 = some (.out 4) := by decide
theorem test_decode_bdv : decodeTableWord 6 0b110010 = some (.bdv 2) := by decide
theorem test_decode_cdv : decodeTableWord 6 0b111011 = some (.cdv 3) := by decide
/-- R66: the five illegal views 7, 23, 47, 55, 63, and no view above 63. -/
theorem test_decode_illegal :
    [7, 23, 47, 55, 63, 64].map (decodeTableWord 6) = List.replicate 6 none := by decide
/-- P1: the words of `ADV 1; OUT 4; JNZ 0`. -/
theorem test_encodeProgram_P1 :
    encodeProgram [.adv 1, .out 4, .jnz 0] = [0, 1, 5, 4, 3, 0] := by decide
/-- R65: no two rows of the opcode map hold one view. -/
theorem test_opcodeTable_disjoint :
    ∀ v : BitVec 6, (opcodeTable.filter fun r => r.holds v).length = 1 := by decide

/-! ### One step of each instruction -/

/-- V-D3. -/
theorem test_adv_self_clears : oneStep 12 0 0 [0, 4] = some (0, 0, 0, 2, []) := by decide
/-- V-D10: `(2^64 + 5) div 8`. -/
theorem test_adv_no_width : oneStep (2 ^ 64 + 5) 0 0 [0, 3] = some (2 ^ 61, 0, 0, 2, []) := by decide
/-- V-D6: the old B is the exponent. -/
theorem test_bdv_old_value : oneStep 12 2 0 [6, 5] = some (12, 3, 0, 2, []) := by decide
/-- V-D9: a huge exponent. -/
theorem test_bdv_huge_exponent : oneStep 12 (10 ^ 30) 0 [6, 5] = some (12, 0, 0, 2, []) := by decide
/-- V-D7: the old C is the exponent. -/
theorem test_cdv_old_value : oneStep 12 0 1 [7, 6] = some (12, 0, 6, 2, []) := by decide
/-- V-D12. -/
theorem test_cdv_by_b : oneStep 100 5 0 [7, 5] = some (100, 5, 3, 2, []) := by decide
/-- V-B4: 4 is the number, not register A. -/
theorem test_bxl_literal_four : oneStep 6 1 0 [1, 4] = some (6, 5, 0, 2, []) := by decide
/-- V-B5: only bits 2..0 change. -/
theorem test_bxl_large : oneStep 0 (2 ^ 70 + 5) 0 [1, 6] = some (0, 2 ^ 70 + 3, 0, 2, []) := by decide
/-- S2. -/
theorem test_bst_of_c : oneStep 0 0 9 [2, 6] = some (0, 1, 9, 2, []) := by decide
/-- V-B6. -/
theorem test_bst_of_b : oneStep 0 13 0 [2, 5] = some (0, 5, 0, 2, []) := by decide
/-- V-B10: operand 7 is ignored. -/
theorem test_bxc_operand_seven :
    oneStep 0 2024 43690 [4, 7] = some (0, 44354, 43690, 2, []) := by decide
/-- V-B12: not reduced mod 8. -/
theorem test_bxc_large : oneStep 0 (2 ^ 70) 1 [4, 0] = some (0, 2 ^ 70 + 1, 1, 2, []) := by decide
/-- V-J3: a taken jump does not also advance. -/
theorem test_jnz_taken : oneStep 1 0 0 [3, 4, 5, 1, 5, 2] = some (1, 0, 0, 4, []) := by decide
/-- V-J6: not taken, operand 7 is unchecked. -/
theorem test_jnz_not_taken : oneStep 0 0 0 [3, 7, 5, 0] = some (0, 0, 0, 2, []) := by decide
/-- V-O3. -/
theorem test_out_large : oneStep (2 ^ 64 + 5) 0 0 [5, 4] = some (2 ^ 64 + 5, 0, 0, 2, [5]) := by decide
/-- V-O2. -/
theorem test_out_of_c : oneStep 0 0 14 [5, 6] = some (0, 0, 14, 2, [6]) := by decide

/-! ### Faults and ends -/

/-- V-F1, V-F2. -/
theorem test_malformed :
    [0, 2, 5, 6, 7].map (fun op => causeAfter (State.launch 3 0 0 [op, 7])) =
      List.replicate 5 (some .malformedOperand) := by decide
/-- V-F4b: even BXC needs its operand word. -/
theorem test_operand_fetch :
    causeAfter (State.launch 3 0 0 [4]) = some (.illFormedProgram .operandFetchOutOfRange) := by
  decide
/-- V-F5: the jump to address 1 completes, and the step after it faults. -/
theorem test_misaligned :
    oneStep 1 0 0 [3, 1, 5, 0] = some (1, 0, 0, 1, []) ∧
    causeAfter { State.launch 1 0 0 [3, 1, 5, 0] with pc := 1 } =
      some (.illFormedProgram .misalignedIP) := by decide
/-- V-F6: `pc` odd and `pc + 1 = L`; MisalignedIP wins. -/
theorem test_misaligned_first :
    causeAfter { State.launch 1 0 0 [3, 3, 5, 0] with pc := 3 } =
      some (.illFormedProgram .misalignedIP) := by decide
/-- V-F9: a target of exactly `L`; V-J8: unchecked when not taken. -/
theorem test_jump_target :
    causeAfter (State.launch 1 0 0 [3, 2]) = some (.illFormedProgram .jumpTargetOutOfRange) ∧
    oneStep 0 0 0 [3, 4] = some (0, 0, 0, 2, []) := by decide
/-- S6: the empty Program. -/
theorem test_empty_program :
    after (State.launch 5 3 9 []) = none ∧
      (State.launch 5 3 9 []).hostView = .result [] 5 3 9 := by decide
/-- R69, R171: wider parameters are refused, not masked. -/
theorem test_launch_refused :
    launchIntegers 1 0 0 [0, 8] = .error (.notACodeWord 1) ∧
    launchIntegers 1 0 (-1) [] = .error (.negativeRegister .C) := by decide
/-- R143: the numbers of the causes and kinds. -/
theorem test_fault_numbers :
    faultCodes = (0, 1, 2) ∧ [IllFormedKind.misalignedIP, .operandFetchOutOfRange,
      .jumpTargetOutOfRange].map IllFormedKind.number = [1, 2, 3] := by decide
/-- The host's placing of an instruction: it is what the next step runs. -/
theorem test_withFetchWord :
    (State.reset.withFetchWord 6 0b011000).fetchInstr = .ok (.jnz 0) ∧
    ({ State.launch 1 2 3 [3, 3, 5, 0] with pc := 3 }.withFetchWord 6 0b101100).fetchInstr =
      .ok (.out 4) := by decide

/-! ### Witnesses: states and operands that meet the hypotheses of the statements -/

/-- A Faulted state, that of V-F9. -/
def faulted : State := (State.launch 1 0 0 [3, 2]).raiseJumpTarget 2

theorem witness_LaunchIsRefused :
    (launchIntegers 0 7 9 [0, 7]).toOption = some (State.launch 0 7 9 [0, 7]) := by decide
/-- Faulted; Halted at exactly `L`; Running at `L - 1`. -/
theorem witness_status_clauses :
    faulted.cause = some (.illFormedProgram .jumpTargetOutOfRange) ∧
    ({ State.launch 1 0 0 [5, 0] with pc := 2 }.fault = none ∧
      { State.launch 1 0 0 [5, 0] with pc := 2 }.len ≤ 2) ∧
    ({ State.launch 1 0 0 [5, 0] with pc := 1 }.fault = none ∧
      1 < { State.launch 1 0 0 [5, 0] with pc := 1 }.len) := by decide
theorem witness_NoReturnFromAFault :
    faulted.fault ≠ none ∧ (∃ t, exec .bxc faulted = .next t) ∧ Reaches faulted faulted :=
  ⟨by decide, ⟨_, rfl⟩, .refl⟩
/-- The largest literal, in range and a jump to the last address of the Program. -/
theorem witness_LiteralOperands :
    (State.launch 1 0 0 [3, 7, 0, 0, 0, 0, 0, 0]).a ≠ 0 ∧
      (7 : CodeWord).toNat < (State.launch 1 0 0 [3, 7, 0, 0, 0, 0, 0, 0]).len := by decide
theorem witness_BxcOperand :
    (State.launch 0 1 2 [4, 7]).AtPair 4 7 ∧
    ((State.launch 0 1 2 [4]).fault = none ∧ (State.launch 0 1 2 [4]).pc % 2 = 0 ∧
      (State.launch 0 1 2 [4]).program[0]? = some 4 ∧ (State.launch 0 1 2 [4]).program[1]? = none ∧
      (State.launch 0 1 2 [4]).pc + 1 = (State.launch 0 1 2 [4]).len) := by decide
/-- BXC's two clauses about its operands. -/
theorem witness_BxcXors :
    (State.launch 0 6 6 []).b = (State.launch 0 6 6 []).c ∧ (State.launch 0 6 0 []).c = 0 := by
  decide
/-- For each combo opcode: the largest operand it takes, and the pair that traps (these pairs also
meet the clauses of ComboMeaningsTakeTheFaultOnOperandSeven). -/
theorem witness_combo_instructions :
    (6 : CodeWord) ≠ 7 ∧ (State.launch 0 0 0 [0, 7]).AtPair 0 7 ∧
    (State.launch 0 0 0 [6, 7]).AtPair 6 7 ∧ (State.launch 0 0 0 [7, 7]).AtPair 7 7 ∧
    (State.launch 0 0 0 [2, 7]).AtPair 2 7 ∧ (State.launch 0 0 0 [5, 7]).AtPair 5 7 := by decide
/-- JNZ: A = 0; the last target in range; the first one out of range. -/
theorem witness_Jnz :
    (State.launch 0 0 0 [3, 2]).a = 0 ∧
    ((State.launch 1 0 0 [3, 1]).a ≠ 0 ∧ (1 : CodeWord).toNat < (State.launch 1 0 0 [3, 1]).len) ∧
    ((State.launch 1 0 0 [3, 2]).a ≠ 0 ∧
      (State.launch 1 0 0 [3, 2]).len ≤ (2 : CodeWord).toNat) := by decide
/-- The four rows: past the end, odd, last word of an odd length, and a whole pair. -/
theorem witness_TakenJumpTargets :
    (State.launch 1 0 0 [3, 2]).AtPair 3 2 ∧ (State.launch 1 0 0 [3, 1]).AtPair 3 1 ∧
    (State.launch 1 0 0 [3, 2, 5]).AtPair 3 2 ∧ (State.launch 1 0 0 [3, 2, 5, 0]).AtPair 3 2 ∧
    (State.launch 1 0 0 []).a ≠ 0 := by decide
/-- `7 < 2^3` is the boundary: `2^3` above A by one. -/
theorem witness_LargeExponents :
    (State.launch 7 0 0 []).combo 3 = some 3 ∧ (State.launch 7 0 0 []).a < 2 ^ 3 := by decide
theorem witness_SuccessiveAdv : (3 : CodeWord).toNat < 4 ∧ (0 : CodeWord).toNat < 4 := by decide
theorem witness_DecodeAndEncode :
    (Instr.cdv 6).wellFormed = true ∧ decode 7 6 = .ok (.cdv 6) ∧ decode 4 7 = .ok .bxc ∧
      Instr.cdv 6 ≠ .bxc := by decide
theorem witness_ProgramsAreReadBack :
    decodeProgram [0, 1, 4, 7, 3, 0] = .ok [.adv 1, .bxc, .jnz 0] ∧
      [Instr.adv 1, .bxc, .jnz 0][2]? = some (.jnz 0) := by decide
theorem witness_StepRunsTheInstructionAtItsPair :
    (∀ j ∈ [Instr.adv 1, .out 4, .jnz 0], j.wellFormed = true) ∧
    { State.launch 2024 0 0 [0, 1, 5, 4, 3, 0] with pc := 4 }.program =
      encodeProgram [.adv 1, .out 4, .jnz 0] ∧
    { State.launch 2024 0 0 [0, 1, 5, 4, 3, 0] with pc := 4 }.pc = 2 * 2 ∧
    { State.launch 2024 0 0 [0, 1, 5, 4, 3, 0] with pc := 4 }.fault = none ∧
    [Instr.adv 1, .out 4, .jnz 0][2]? = some (.jnz 0) := by decide
theorem witness_StepRunsTheDecodedInstruction :
    (State.launch 10 0 0 [5, 4]).AtPair 5 4 ∧ decode 5 4 = .ok (.out 4) := by decide
/-- One Running state for each cause (R142, R141). -/
theorem witness_EachFault :
    (State.launch 3 0 0 [7, 7]).AtPair 7 7 ∧
    ({ State.launch 1 0 0 [3, 3, 5, 0] with pc := 3 }.fault = none ∧
      3 < { State.launch 1 0 0 [3, 3, 5, 0] with pc := 3 }.len) ∧
    ({ State.launch 3 0 0 [5, 4, 0] with pc := 2 }.fault = none ∧
      2 + 1 = { State.launch 3 0 0 [5, 4, 0] with pc := 2 }.len) ∧
    ((State.launch 1 0 0 [3, 2]).AtPair 3 2 ∧
      (State.launch 1 0 0 [3, 2]).len ≤ (2 : CodeWord).toNat) := by decide
theorem witness_FaultsArePrecise :
    step (State.launch 1 0 0 [3, 2]) = .next faulted ∧ faulted.fault ≠ none := ⟨rfl, by decide⟩
theorem witness_LatchRecords :
    step (State.launch 1 0 0 [3, 2]) = .next faulted ∧
      faulted.fault = some ⟨.illFormedProgram .jumpTargetOutOfRange, ⟨0, some 2⟩⟩ :=
  ⟨rfl, by decide⟩
theorem witness_OddPc :
    step (State.launch 1 0 0 [3, 1]) = .next { State.launch 1 0 0 [3, 1] with pc := 1 } ∧
      { State.launch 1 0 0 [3, 1] with pc := 1 }.fault = none := ⟨rfl, by decide⟩
/-- A taken and a not taken JNZ, and an instruction that is no JNZ. -/
theorem witness_PcAdvances :
    ((Instr.jnz 0).wellFormed = true ∧ Instr.bxc.wellFormed = true) ∧
      (State.launch 1 0 0 [3, 0]).fault = none ∧ (State.launch 1 0 0 [3, 0]).a ≠ 0 ∧
      (State.launch 0 0 0 [3, 0]).a = 0 ∧ ∀ o, Instr.bxc ≠ .jnz o :=
  ⟨by decide, by decide, by decide, rfl, nofun⟩
/-- A register that CDV does not write; an instruction that is not OUT; a latch that changes. -/
theorem witness_Frame :
    (∃ t, exec (.cdv 0) (State.launch 1 0 0 []) = .next t) ∧ writesReg (.cdv 0) ≠ some .A ∧
    isOut (.cdv 0) = false ∧ exec (.jnz 2) (State.launch 1 0 0 [3, 2]) = .next faulted ∧
    faulted.fault ≠ (State.launch 1 0 0 [3, 2]).fault :=
  ⟨⟨_, rfl⟩, by decide, by decide, rfl, by decide⟩
/-- An unread register that is overwritten, and one that is kept. -/
theorem witness_UnreadRegisters :
    (readsReg (.bst 4) .B = false ∧ writesReg (.bst 4) = some .B) ∧
      (readsReg (.bst 4) .C = false ∧ writesReg (.bst 4) ≠ some .C) := by decide
/-- Programs that differ beyond the fetched pair. -/
theorem witness_OnlyTheFetchedPair :
    [5, 1, 5, 7].length = (State.launch 1 0 0 [5, 1, 3, 2]).program.length ∧
    ([5, 1, 5, 7] : List CodeWord)[0]? = (State.launch 1 0 0 [5, 1, 3, 2]).program[0]? ∧
    ([5, 1, 5, 7] : List CodeWord)[1]? = (State.launch 1 0 0 [5, 1, 3, 2]).program[1]? := by decide
/-- A step that appends, and a run that it makes. -/
theorem witness_runs :
    ∃ t, step (State.launch 10 0 0 [5, 4]) = .next t ∧ Reaches (State.launch 10 0 0 [5, 4]) t :=
  ⟨_, rfl, .tail .refl rfl⟩
theorem witness_RegisterANeverGrows :
    ∃ t, step (State.launch 7 0 0 [0, 1]) = .next t ∧ t.a ≠ (State.launch 7 0 0 [0, 1]).a :=
  ⟨_, rfl, by decide⟩
theorem witness_JumpsReach :
    ∃ t, step (State.launch 1 0 0 [3, 4, 5, 1, 5, 2]) = .next t ∧ t.fault = none ∧
      t.pc ≠ (State.launch 1 0 0 [3, 4, 5, 1, 5, 2]).pc + 2 := ⟨_, rfl, rfl, by decide⟩
/-- P6. -/
theorem witness_JumpToItself :
    (State.launch 1 0 0 [3, 0]).AtPair 3 0 ∧ (0 : CodeWord).toNat = (State.launch 1 0 0 [3, 0]).pc ∧
      (State.launch 1 0 0 [3, 0]).a ≠ 0 := by decide
/-- A step for each invariant: a halt at `L`, a fault, and the last whole pair of an odd length. -/
theorem witness_invariant_steps :
    (∃ t, (State.launch 1 0 0 [5, 4]).PcInRange ∧ step (State.launch 1 0 0 [5, 4]) = .next t) ∧
    (∃ t, (State.launch 1 0 0 [3, 2]).LatchExplained ∧ step (State.launch 1 0 0 [3, 2]) = .next t) ∧
    (∃ t, (State.launch 1 0 0 [5, 4, 0]).BeforeOddEnd ∧
      step (State.launch 1 0 0 [5, 4, 0]) = .next t) :=
  ⟨⟨_, by decide, rfl⟩, ⟨_, trivial, rfl⟩, ⟨_, by decide, rfl⟩⟩
/-- A run that halts; V-F4's run that ends with a fault. -/
theorem witness_run_claims :
    (Reaches (State.launch 1 0 0 [5, 4]) { State.launch 1 0 0 [5, 4] with pc := 2, out := [1] } ∧
      { State.launch 1 0 0 [5, 4] with pc := 2, out := [1] }.status = .halted) ∧
    (([4] : List CodeWord).length % 2 = 1 ∧
      Reaches (State.launch 3 0 0 [4]) (State.launch 3 0 0 [4]).raiseOperandFetch ∧
      ∀ t, step (State.launch 3 0 0 [4]).raiseOperandFetch ≠ .next t) :=
  ⟨⟨.tail .refl rfl, by decide⟩, by decide, .tail .refl rfl, nofun⟩

end Sys2Proof.Tests
end

/-! What a write to any register leaves unchanged, and when the engine's conditions hold. -/

namespace Sys2Proof.Machine.State

variable (s : State)

@[simp] theorem writeReg_pc (r : Reg) (v : Nat) : (s.writeReg r v).pc = s.pc := by
  cases r <;> rfl
@[simp] theorem writeReg_out (r : Reg) (v : Nat) : (s.writeReg r v).out = s.out := by
  cases r <;> rfl
@[simp] theorem writeReg_fault (r : Reg) (v : Nat) : (s.writeReg r v).fault = s.fault := by
  cases r <;> rfl
@[simp] theorem writeReg_program (r : Reg) (v : Nat) : (s.writeReg r v).program = s.program := by
  cases r <;> rfl

/-- A state is Running exactly when its latch is clear and `pc` is below `L` (R32). -/
theorem status_eq_running_iff : s.status = .running ↔ s.fault = none ∧ s.pc < s.len := by
  unfold status cause
  cases hf : s.fault with
  | none => simp
  | some r => simp

theorem jumpTaken_iff : s.jumpTaken = true ↔ s.a ≠ 0 := by simp [jumpTaken]

theorem targetInRange_iff (target : Nat) : s.targetInRange target = true ↔ target < s.len := by
  simp [targetInRange]

end Sys2Proof.Machine.State

/-! The inversion lemmas: what stands behind a next state of `exec` and of `step`. -/

namespace Sys2Proof

/-- The opcode and operand words are known from what they decode to, but for BXC's ignored operand
(R67, R68). -/
theorem encode_of_decode {p q : CodeWord} {i : Instr} (h : decode p q = .ok i) (hi : i ≠ .bxc) :
    encode i = (p, q) := by
  rcases codeWord_cases p with rfl | rfl | rfl | rfl | rfl | rfl | rfl | rfl
  case inr.inr.inr.inr.inl => exact absurd (Except.ok.inj h).symm hi
  case inr.inl => cases h; rfl
  case inr.inr.inr.inl => cases h; rfl
  all_goals obtain ⟨-, rfl⟩ := decodeCombo_ok_iff.1 h; rfl

namespace Machine

/-- The ways an instruction `i` can turn the state `s` into the next state: every answer of `exec`
is one of them (`execEffect_of_exec`). -/
inductive ExecEffect (i : Instr) (s : State) : State → Prop where
  /-- The register of R23 is written. -/
  | write (r : Reg) (v : Nat) (hr : writesReg i = some r) : ExecEffect i s (s.writeReg r v).advance
  /-- OUT appends (R130). -/
  | append (o : CodeWord) (n : Nat) (hi : i = .out o) (hn : s.combo o = some n) :
      ExecEffect i s (s.appendOut (lowDigitWord n)).advance
  /-- JNZ not taken (R120). -/
  | fallThrough (o : CodeWord) (hi : i = .jnz o) (ha : s.a = 0) : ExecEffect i s s.advance
  /-- JNZ taken, inside the Program (R120). -/
  | jump (o : CodeWord) (hi : i = .jnz o) (ha : s.a ≠ 0) (ho : o.toNat < s.len) :
      ExecEffect i s (s.jump o.toNat)
  /-- JNZ taken, past the end (R121). -/
  | jumpFault (o : CodeWord) (hi : i = .jnz o) (ha : s.a ≠ 0) (ho : s.len ≤ o.toNat) :
      ExecEffect i s (s.raiseJumpTarget o)
  /-- Operand 7 of a combo opcode (R141; log entry 16). -/
  | malformed (opcode : CodeWord) (hi : i.wellFormed = false) :
      ExecEffect i s (s.raiseMalformed opcode)

theorem execEffect_of_withCombo {i : Instr} {s t : State} {opcode o : CodeWord}
    {effect : Nat → State} (hwf : i.wellFormed = CodeWord.comboLegal o)
    (heffect : ∀ n, s.combo o = some n → ExecEffect i s (effect n))
    (h : s.withCombo opcode o effect = .next t) : ExecEffect i s t := by
  rcases s.withCombo_cases opcode o effect with ⟨n, -, hn, heq⟩ | ⟨rfl, heq⟩
  · cases heq.symm.trans h
    exact heffect n hn
  · cases heq.symm.trans h
    exact .malformed opcode hwf

theorem execEffect_of_execJnz {s t : State} {o : CodeWord} (h : execJnz o s = .next t) :
    ExecEffect (.jnz o) s t := by
  unfold execJnz at h
  split_ifs at h with ha ho
  · cases h
    exact .jump o rfl (s.jumpTaken_iff.1 ha) ((s.targetInRange_iff _).1 ho)
  · cases h
    exact .jumpFault o rfl (s.jumpTaken_iff.1 ha)
      (Nat.le_of_not_lt (mt (s.targetInRange_iff _).2 ho))
  · cases h
    exact .fallThrough o rfl (not_not.1 (mt s.jumpTaken_iff.2 ha))

theorem execEffect_of_exec {i : Instr} {s t : State} (h : exec i s = .next t) :
    ExecEffect i s t := by
  cases i with
  | adv o => exact execEffect_of_withCombo rfl (fun _ _ => .write .A _ rfl) h
  | bst o => exact execEffect_of_withCombo rfl (fun _ _ => .write .B _ rfl) h
  | bdv o => exact execEffect_of_withCombo rfl (fun _ _ => .write .B _ rfl) h
  | cdv o => exact execEffect_of_withCombo rfl (fun _ _ => .write .C _ rfl) h
  | out o => exact execEffect_of_withCombo rfl (fun n hn => .append o n rfl hn) h
  | bxl o => cases h; exact .write .B _ rfl
  | bxc => cases h; exact .write .B _ rfl
  | jnz o => exact execEffect_of_execJnz h

namespace ExecEffect

variable {i : Instr} {s t : State}

theorem reg_eq (h : ExecEffect i s t) {r : Reg} (hr : writesReg i ≠ some r) :
    t.reg r = s.reg r := by
  cases h with
  | write q v hq => exact s.writeReg_reg_ne (fun e => hr (hq.trans (congrArg some e.symm))) v
  | append | fallThrough | jump | jumpFault | malformed => rfl

theorem out_eq (h : ExecEffect i s t) (hi : isOut i = false) : t.out = s.out := by
  cases h with
  | write r v _ => simp
  | append o n ho _ => rw [ho] at hi; cases hi
  | fallThrough | jump | jumpFault | malformed => rfl

theorem program_eq (h : ExecEffect i s t) : t.program = s.program := by
  cases h with
  | write r v _ => simp
  | append | fallThrough | jump | jumpFault | malformed => rfl

/-- The latch changes only by a fault, and a fault is precise (R147). -/
theorem fault_change (h : ExecEffect i s t) (hne : t.fault ≠ s.fault) :
    t = { s with fault := t.fault } ∧
      (i.wellFormed = false ∨ ∃ o, i = .jnz o ∧ s.a ≠ 0 ∧ s.len ≤ o.toNat) := by
  cases h with
  | write r v _ => simp at hne
  | append | fallThrough | jump => exact absurd rfl hne
  | jumpFault o hi ha ho => exact ⟨rfl, .inr ⟨o, hi, ha, ho⟩⟩
  | malformed _ hi => exact ⟨rfl, .inl hi⟩

/-- Where `pc` neither stays (a fault) nor advances by 2, a taken JNZ has put it (R120, R123). -/
theorem jump_of_pc_ne (h : ExecEffect i s t) (hstay : t.pc ≠ s.pc) (hadv : t.pc ≠ s.pc + 2) :
    ∃ o, i = .jnz o ∧ s.a ≠ 0 ∧ o.toNat < s.len ∧ t = s.jump o.toNat := by
  cases h with
  | write r v _ => simp at hadv
  | append | fallThrough => exact absurd rfl hadv
  | jump o hi ha ho => exact ⟨o, hi, ha, ho, rfl⟩
  | jumpFault | malformed => exact absurd rfl hstay

end ExecEffect

/-- A fetch that fails takes a fault, and does nothing else (R82, R147). -/
theorem State.fetchInstr_error_raises {s t : State} (h : s.fetchInstr = .error t) :
    ∃ cause info, t = s.raise cause info := by
  rcases State.fetchInstr_error_cases h with ⟨-, rfl⟩ | ⟨-, -, rfl⟩ | ⟨-, _, _, _, -, -, -, rfl⟩ <;>
    exact ⟨_, _, rfl⟩

/-- What a step can do: its fetch takes a fault, or the instruction at the pair runs (R80). -/
theorem step_next_inversion {s t : State} (h : step s = .next t) :
    (∃ cause info, t = s.raise cause info) ∨
      ∃ op o i, s.AtPair op o ∧ decode op o = .ok i ∧ exec i s = .next t := by
  obtain ⟨hrun, herr | ⟨i, hfetch, hexec⟩⟩ := step_next_cases h
  · exact .inl (State.fetchInstr_error_raises herr)
  · obtain ⟨hpc, op, o, hop, ho, hdec⟩ := State.fetchInstr_ok_iff.1 hfetch
    obtain ⟨hfault, -⟩ := s.status_eq_running_iff.1 hrun
    exact .inr ⟨op, o, i, ⟨hfault, hpc, hop, ho⟩, hdec, hexec⟩

end Machine

end Sys2Proof

/-! Changes of the state that no instruction reads. -/

namespace Sys2Proof.Machine

/-- `f` changes only what no instruction reads: the registers, `pc` and the latch stay, and `f` may
be done before or after each operation on the state. -/
structure Unread (f : State → State) : Prop where
  reg : ∀ s r, (f s).reg r = s.reg r
  pc : ∀ s, (f s).pc = s.pc
  fault : ∀ s, (f s).fault = s.fault
  writeReg : ∀ s r v, (f s).writeReg r v = f (s.writeReg r v)
  jump : ∀ s target, (f s).jump target = f (s.jump target)
  appendOut : ∀ s v, (f s).appendOut v = f (s.appendOut v)
  raise : ∀ s cause info, (f s).raise cause info = f (s.raise cause info)

namespace Unread

variable {f : State → State} (hf : Unread f)
include hf

theorem advance (s : State) : (f s).advance = f s.advance :=
  calc (f s).advance = (f s).jump ((f s).pc + Config.instrWords) := rfl
    _ = f (s.jump (s.pc + Config.instrWords)) := by rw [hf.pc, hf.jump]

theorem raiseMalformed (s : State) (opcode : CodeWord) :
    (f s).raiseMalformed opcode = f (s.raiseMalformed opcode) := by
  simp only [State.raiseMalformed, hf.raise, hf.pc]

theorem setB (s : State) (v : Nat) : (f s).setB v = f (s.setB v) := by
  simp only [State.setB, hf.writeReg, hf.advance]

theorem divideInto (s : State) (r : Reg) (n : Nat) :
    (f s).divideInto r n = f (s.divideInto r n) := by
  simp only [State.divideInto, hf.reg, hf.writeReg, hf.advance]

theorem combo (s : State) (o : CodeWord) : (f s).combo o = s.combo o :=
  State.combo_congr (hf.reg s .A) (hf.reg s .B) (hf.reg s .C) o

theorem withCombo (s : State) (opcode o : CodeWord) {effect effect' : Nat → State}
    (heffect : ∀ n, effect' n = f (effect n)) :
    (f s).withCombo opcode o effect' = mapNext f (s.withCombo opcode o effect) := by
  unfold State.withCombo
  rw [hf.combo]
  cases s.combo o with
  | none => exact congrArg _ (hf.raiseMalformed s opcode)
  | some n => exact congrArg _ (heffect n)

theorem execJnz {s : State} (hlen : (f s).len = s.len) (o : CodeWord) :
    execJnz o (f s) = mapNext f (execJnz o s) := by
  unfold Machine.execJnz State.jumpTaken State.targetInRange State.raiseJumpTarget
  simp only [hf.reg, hf.pc, hf.jump, hf.advance, hf.raise, hlen]
  split_ifs <;> rfl

/-- An instruction keeps such a change and does nothing else about it, where `L` stays. -/
theorem exec {s : State} (hlen : (f s).len = s.len) (i : Instr) :
    exec i (f s) = mapNext f (exec i s) := by
  cases i with
  | adv o => exact hf.withCombo s 0 o (hf.divideInto s .A)
  | bdv o => exact hf.withCombo s 6 o (hf.divideInto s .B)
  | cdv o => exact hf.withCombo s 7 o (hf.divideInto s .C)
  | bst o => exact hf.withCombo s 2 o fun v => hf.setB s (lowDigit v)
  | out o =>
    exact hf.withCombo s 5 o fun v => by rw [hf.appendOut, hf.advance]
  | bxl o => simp only [Machine.exec, execBxl, hf.reg, hf.setB, mapNext]
  | bxc => simp only [Machine.exec, execBxc, hf.reg, hf.setB, mapNext]
  | jnz o => exact hf.execJnz hlen o

theorem fetchInstr {s : State} (hop : (f s).memRead s.pc = s.memRead s.pc)
    (ho : (f s).memRead (s.pc + 1) = s.memRead (s.pc + 1)) :
    (f s).fetchInstr = s.fetchInstr.mapError f := by
  unfold State.fetchInstr
  rw [hf.pc, hop, ho]
  split_ifs
  · simp only [State.raiseMisaligned, hf.raise, hf.pc, Except.mapError]
  · cases s.memRead s.pc with
    | none => simp only [State.raiseOperandFetch, hf.raise, hf.pc, Except.mapError]
    | some op =>
      cases s.memRead (s.pc + 1) with
      | none => simp only [State.raiseOperandFetch, hf.raise, hf.pc, Except.mapError]
      | some o =>
        cases hdec : decode op o with
        | ok i => simp only [hdec, Except.mapError]
        | error r => simp only [hdec, hf.raiseMalformed, Except.mapError]

theorem status {s : State} (hlen : (f s).len = s.len) : (f s).status = s.status := by
  unfold State.status State.cause
  rw [hf.fault, hf.pc, hlen]

/-- A step keeps such a change and does nothing else about it, where `L` and the two words at `pc`
stay. -/
theorem step {s : State} (hlen : (f s).len = s.len) (hop : (f s).memRead s.pc = s.memRead s.pc)
    (ho : (f s).memRead (s.pc + 1) = s.memRead (s.pc + 1)) :
    step (f s) = mapNext f (step s) := by
  unfold Machine.step
  rw [hf.status hlen, hf.fetchInstr hop ho]
  cases s.status with
  | faulted c => rfl
  | halted => rfl
  | running =>
    cases s.fetchInstr with
    | error t => rfl
    | ok i => exact hf.exec hlen i

end Unread

/-- No instruction reads the output (R30, R131). -/
theorem unread_prependOut (pre : List CodeWord) :
    Unread fun s => { s with out := pre ++ s.out } where
  reg _ _ := rfl
  pc _ := rfl
  fault _ := rfl
  writeReg _ r _ := by cases r <;> rfl
  jump _ _ := rfl
  appendOut s v := congrArg (fun l => { s with out := l }) (List.append_assoc pre s.out [v])
  raise _ _ _ := rfl

end Sys2Proof.Machine

/-! The statements about the state. -/

namespace Sys2Proof.Machine

/-- Settles O33: a step whose fetch faults sets the latch, and an instruction at an even `pc` leaves
an odd one only by a taken jump. -/
theorem oddPcComesOnlyFromATakenOddJump : Obligations.OddPcComesOnlyFromATakenOddJump := by
  intro s t hstep hclear hodd
  obtain ⟨cause, info, rfl⟩ | ⟨op, w, i, hpair, hdec, hexec⟩ := step_next_inversion hstep
  · cases hclear
  · have ⟨_, heven, _⟩ := hpair
    obtain ⟨o, rfl, ha, ho, rfl⟩ :=
      (execEffect_of_exec hexec).jump_of_pc_ne (by omega) (by omega)
    cases encode_of_decode hdec nofun
    exact ⟨_, hpair, ha, hodd, ho, rfl⟩

/-- Settles O36, from the frames of `ExecEffect`. -/
theorem frameOfEveryInstruction : Obligations.FrameOfEveryInstruction := by
  intro i s t hexec
  have heff := execEffect_of_exec hexec
  have hprogram := heff.program_eq
  exact ⟨fun _ hr => heff.reg_eq hr, heff.out_eq,
    fun addr => by simp only [State.memRead, hprogram],
    congrArg List.length hprogram, heff.fault_change⟩

/-- Settles O38: words put before the output are a change that no step reads. -/
theorem outputIsNeverRead : Obligations.OutputIsNeverRead :=
  fun _ pre => (unread_prependOut pre).step rfl rfl rfl

/-- A step leaves the output, or it is an OUT that adds one digit at its end (R30, R130). -/
theorem out_of_step {s t : State} (hstep : step s = .next t) :
    t.out = s.out ∨
      ∃ o n v, s.AtPair 5 o ∧ s.combo o = some n ∧ v.toNat = n % 8 ∧ t.out = s.out ++ [v] := by
  obtain ⟨cause, info, rfl⟩ | ⟨op, w, i, hpair, hdec, hexec⟩ := step_next_inversion hstep
  · exact .inl rfl
  · cases execEffect_of_exec hexec with
    | append o n hi hn =>
      subst hi
      cases encode_of_decode hdec nofun
      exact .inr ⟨_, n, _, hpair, hn, lowDigitWord_toNat n, rfl⟩
    | write r v _ => exact .inl (by simp)
    | fallThrough | jump | jumpFault | malformed => exact .inl rfl

theorem out_prefix_of_step {s t : State} (hstep : step s = .next t) : s.out <+: t.out := by
  obtain hout | ⟨-, -, v, -, -, -, hout⟩ := out_of_step hstep
  · exact hout ▸ List.prefix_rfl
  · exact ⟨[v], hout.symm⟩

theorem out_prefix_of_reaches {s t : State} (hr : Reaches s t) : s.out <+: t.out :=
  hr.keeps (P := fun u => s.out <+: u.out) (fun _ _ h hstep => h.trans (out_prefix_of_step hstep))
    List.prefix_rfl

/-- Settles O40: the step clause, and its induction over runs. -/
theorem outputOnlyGrows : Obligations.OutputOnlyGrows :=
  ⟨fun _ _ => out_of_step, fun _ _ hr =>
    let ⟨added, hadded⟩ := out_prefix_of_reaches hr
    ⟨added, hadded.symm⟩⟩

/-- Settles O2: the fields of the launched state. -/
theorem launchBuildsTheStateSupplied : Obligations.LaunchBuildsTheStateSupplied :=
  fun _ _ _ _ => ⟨rfl, rfl, rfl, rfl, rfl, rfl, rfl⟩

/-- A clear latch needs no explanation. -/
theorem State.latchExplained_of_fault_eq_none {s : State} (h : s.fault = none) :
    s.LatchExplained := by
  simp [State.LatchExplained, State.cause, h]

/-- Settles O48: a launch has `pc = 0` and a clear latch, and an odd length is above 0. -/
theorem invariantsHoldAtLaunch : Obligations.InvariantsHoldAtLaunch := by
  refine ⟨Nat.zero_le _, State.latchExplained_of_fault_eq_none rfl, fun a0 b0 c0 p =>
    ⟨Nat.zero_le _, State.latchExplained_of_fault_eq_none rfl, fun hodd => ⟨hodd, ?_⟩⟩⟩
  have hpos : 0 < p.length := by omega
  exact hpos

end Sys2Proof.Machine

/-! When the decoder rejects a pair, and what a step does at each kind of `pc`. -/

namespace Sys2Proof

/-- The combo rows of R68 reject operand 7 alone. -/
theorem decodeCombo_error_iff {opcode operand : CodeWord} {mk : CodeWord → Instr} :
    (∃ r, decodeCombo opcode operand mk = .error r) ↔ operand = 7 := by
  unfold decodeCombo
  split_ifs with h
  · exact ⟨nofun, fun h7 => absurd h7 ((comboLegal_iff operand).1 h)⟩
  · exact ⟨fun _ => not_not.1 (mt (comboLegal_iff operand).2 h), fun _ => ⟨_, rfl⟩⟩

/-- The five illegal encodings (R66). -/
theorem decode_error_iff {p q : CodeWord} :
    (∃ r, decode p q = .error r) ↔ p ∈ [0, 2, 5, 6, 7] ∧ q = 7 := by
  rcases codeWord_cases p with rfl | rfl | rfl | rfl | rfl | rfl | rfl | rfl <;>
    simp [decode, decodeCombo_error_iff]

/-- Whatever decodes is an instruction (R66, R68). -/
theorem wellFormed_of_decode {p q : CodeWord} {i : Instr} (h : decode p q = .ok i) :
    i.wellFormed = true := by
  rcases codeWord_cases p with rfl | rfl | rfl | rfl | rfl | rfl | rfl | rfl
  case inr.inl | inr.inr.inr.inl | inr.inr.inr.inr.inl => cases h; rfl
  all_goals
    obtain ⟨h7, rfl⟩ := decodeCombo_ok_iff.1 h
    exact (comboLegal_iff q).2 h7

namespace Machine

variable {s t : State} {op o : CodeWord}

theorem step_of_fetchInstr_error (hrun : s.status = .running) (h : s.fetchInstr = .error t) :
    step s = .next t := by
  simp only [step, hrun, h]

theorem step_of_fetchInstr_ok {i : Instr} (hrun : s.status = .running)
    (h : s.fetchInstr = .ok i) : step s = exec i s := by
  simp only [step, hrun, h]

/-- D4: an odd `pc` faults (R44). -/
theorem step_of_odd_pc (hrun : s.status = .running) (hodd : s.pc % 2 = 1) :
    step s = .next s.raiseMisaligned :=
  step_of_fetchInstr_error hrun (if_pos hodd)

/-- A missing operand word faults (R45). -/
theorem step_of_last_word (hrun : s.status = .running) (heven : s.pc % 2 = 0)
    (hlast : s.pc + 1 = s.len) : step s = .next s.raiseOperandFetch := by
  have hnone : s.memRead (s.pc + 1) = none := (s.memRead_eq_none_iff _).2 hlast.ge
  refine step_of_fetchInstr_error hrun ?_
  simp [State.fetchInstr, heven, hnone]

namespace State.AtPair

variable (hpair : s.AtPair op o)
include hpair

theorem status_eq_running : s.status = .running := by
  obtain ⟨hfault, -, hop, -⟩ := hpair
  obtain ⟨hlt, -⟩ := List.getElem?_eq_some_iff.1 hop
  exact s.status_eq_running_iff.2 ⟨hfault, hlt⟩

/-- At a pair that decodes, the step is the meaning of the instruction (R80). -/
theorem step_eq_exec {i : Instr} (hdec : decode op o = .ok i) : step s = exec i s := by
  have ⟨_, heven, hop, ho⟩ := hpair
  exact step_of_fetchInstr_ok hpair.status_eq_running
    (State.fetchInstr_ok_iff.2 ⟨heven, op, o, hop, ho, hdec⟩)

/-- At a pair that does not decode, the step faults (R141). -/
theorem step_eq_raiseMalformed {r : DecodeReject} (hdec : decode op o = .error r) :
    step s = .next (s.raiseMalformed op) := by
  have ⟨_, heven, hop, ho⟩ := hpair
  refine step_of_fetchInstr_error hpair.status_eq_running ?_
  simp [State.fetchInstr, State.memRead, heven, hop, ho, hdec]

end State.AtPair

theorem exec_jnz_of_inside (ha : s.a ≠ 0) (ho : o.toNat < s.len) :
    exec (.jnz o) s = .next (s.jump o.toNat) := by
  simp only [exec, execJnz, literal, s.jumpTaken_iff.2 ha, (s.targetInRange_iff _).2 ho, if_true]

/-- D5: a taken jump to or past the end faults (R121). -/
theorem exec_jnz_of_outside (ha : s.a ≠ 0) (ho : s.len ≤ o.toNat) :
    exec (.jnz o) s = .next (s.raiseJumpTarget o) := by
  have hout : s.targetInRange o.toNat = false := by simp [State.targetInRange, ho]
  simp [exec, execJnz, literal, s.jumpTaken_iff.2 ha, hout]

/-- The latch that a step leaves is explained, whatever held before: a step starts with it clear
(R32), and each fault is taken in the state that shows its cause. -/
theorem latchExplained_of_step (hstep : step s = .next t) : t.LatchExplained := by
  obtain ⟨hrun, herr | ⟨i, hfetch, hexec⟩⟩ := step_next_cases hstep
  all_goals obtain ⟨hclear, hlt⟩ := s.status_eq_running_iff.1 hrun
  · obtain ⟨hodd, rfl⟩ | ⟨heven, hend, rfl⟩ | ⟨heven, op, o, r, hop, ho, hdec, rfl⟩ :=
      State.fetchInstr_error_cases herr
    · exact ⟨hodd, hlt⟩
    · exact ⟨heven, Nat.le_antisymm hlt hend⟩
    · obtain ⟨hmem, rfl⟩ := decode_error_iff.1 ⟨r, hdec⟩
      exact ⟨heven, ho, op, hmem, hop⟩
  · obtain ⟨heven, op, w, hop, hw, hdec⟩ := State.fetchInstr_ok_iff.1 hfetch
    cases execEffect_of_exec hexec with
    | write | append | fallThrough | jump =>
      exact State.latchExplained_of_fault_eq_none (by simpa using hclear)
    | jumpFault o hi ha ho =>
      subst hi
      cases encode_of_decode hdec nofun
      exact ⟨heven, ha, hop, _, hw, ho⟩
    | malformed _ hi => exact absurd (wellFormed_of_decode hdec) (by simp [hi])

theorem program_eq_of_step (hstep : step s = .next t) : t.program = s.program := by
  obtain ⟨cause, info, rfl⟩ | ⟨op, o, i, -, -, hexec⟩ := step_next_inversion hstep
  · rfl
  · exact (execEffect_of_exec hexec).program_eq

/-- No operation on the state reads the Program but the fetch and the check of a jump's target
(R47). -/
theorem unread_replaceProgram (p : List CodeWord) : Unread fun s => { s with program := p } where
  reg _ r := by cases r <;> rfl
  pc _ := rfl
  fault _ := rfl
  writeReg _ r _ := by cases r <;> rfl
  jump _ _ := rfl
  appendOut _ _ := rfl
  raise _ _ _ := rfl

end Machine

end Sys2Proof

/-! The statements about memory. -/

namespace Sys2Proof.Machine

/-- Settles O21: a taken jump inside the Program, and the kind of address it has reached. -/
theorem takenJumpTargetsRowByRow : Obligations.TakenJumpTargetsRowByRow := by
  intro s o hpair ha
  have hstep : step s = exec (.jnz o) s := hpair.step_eq_exec rfl
  split_ifs with hout hodd hlast
  · exact ⟨_, hstep.trans (exec_jnz_of_outside ha hout)⟩
  all_goals
    have hin : o.toNat < s.len := Nat.lt_of_not_le hout
    have hjump := hstep.trans (exec_jnz_of_inside ha hin)
    have hrun : (s.jump o.toNat).status = .running :=
      (State.status_eq_running_iff _).2 ⟨hpair.1, hin⟩
  · exact ⟨_, hjump, rfl, _, step_of_odd_pc hrun hodd⟩
  · exact ⟨_, hjump, rfl, _, step_of_last_word hrun (Nat.mod_two_ne_one.1 hodd) hlast⟩
  · have hop := List.getElem?_eq_getElem hin
    have hp := List.getElem?_eq_getElem (Nat.lt_of_le_of_ne hin hlast)
    exact ⟨_, hjump, rfl, _, _, ⟨hpair.1, Nat.mod_two_ne_one.1 hodd, hop, hp⟩, hop, hp⟩

/-- Settles O30: the latch a step leaves is explained, and each explanation raises its fault. -/
theorem eachFaultIsRaisedExactlyOnItsCause : Obligations.EachFaultIsRaisedExactlyOnItsCause := by
  intro s hclear hlt
  have hrun : s.status = .running := s.status_eq_running_iff.2 ⟨hclear, hlt⟩
  refine ⟨⟨?_, ?_⟩, ⟨?_, ?_⟩, ⟨?_, ?_⟩, ⟨?_, ?_⟩⟩
  · rintro ⟨_, hstep⟩
    obtain ⟨heven, ho, op, hmem, hop⟩ := latchExplained_of_step hstep
    exact ⟨op, hmem, hclear, heven, hop, ho⟩
  · rintro ⟨op, hmem, hpair⟩
    obtain ⟨_, hdec⟩ := decode_error_iff.2 ⟨hmem, rfl⟩
    exact ⟨_, hpair.step_eq_raiseMalformed hdec⟩
  · rintro ⟨_, hstep⟩
    obtain ⟨hodd, -⟩ := latchExplained_of_step hstep
    exact hodd
  · exact fun hodd => ⟨_, step_of_odd_pc hrun hodd⟩
  · rintro ⟨_, hstep⟩
    exact latchExplained_of_step hstep
  · exact fun ⟨heven, hlast⟩ => ⟨_, step_of_last_word hrun heven hlast⟩
  · rintro ⟨_, hstep⟩
    obtain ⟨heven, ha, hop, o, ho, hout⟩ := latchExplained_of_step hstep
    exact ⟨o, ⟨hclear, heven, hop, ho⟩, ha, hout⟩
  · rintro ⟨o, hpair, ha, hout⟩
    exact ⟨_, (hpair.step_eq_exec rfl).trans (exec_jnz_of_outside ha hout)⟩

/-- Settles O39: another Program with the same length and the same pair is a change that the step
does not read. -/
theorem onlyTheFetchedPairIsRead : Obligations.OnlyTheFetchedPairIsRead :=
  fun _ p hlen hop ho => (unread_replaceProgram p).step hlen hop ho

/-- Settles O41, by induction over the run. -/
theorem programNeverChanges : Obligations.ProgramNeverChanges :=
  fun s _ hr => hr.keeps (P := fun u => u.program = s.program)
    (fun _ _ h hstep => (program_eq_of_step hstep).trans h) rfl

end Sys2Proof.Machine

/-! Decoding against encoding, for one pair and for a sequence of words. -/

namespace Sys2Proof

/-- The instructions that are read back from their words are the well-formed ones (R66, R68). -/
theorem decode_encode_iff {i : Instr} :
    decode (encode i).1 (encode i).2 = .ok i ↔ i.wellFormed = true := by
  refine ⟨wellFormed_of_decode, fun hwf => ?_⟩
  cases i with
  | bxl | jnz | bxc => rfl
  | adv o | bst o | out o | bdv o | cdv o =>
    exact decodeCombo_ok_iff.2 ⟨(comboLegal_iff o).1 hwf, rfl⟩

/-- BXC is opcode 4 alone (R65). -/
theorem opcode_of_decode_bxc {p q : CodeWord} (h : decode p q = .ok .bxc) : p = 4 := by
  rcases codeWord_cases p with rfl | rfl | rfl | rfl | rfl | rfl | rfl | rfl
  case inr.inr.inr.inr.inl => rfl
  case inr.inl | inr.inr.inr.inl => cases h
  all_goals cases (decodeCombo_ok_iff.1 h).2

theorem decodeProgram_eq_ok_nil_iff {p : List CodeWord} : decodeProgram p = .ok [] ↔ p = [] := by
  refine ⟨fun h => ?_, fun h => h ▸ rfl⟩
  unfold decodeProgram at h
  split at h
  · rfl
  · cases h
  · split at h <;> cases h

/-- A sequence is read pair by pair from its start (R60, R62). -/
theorem decodeProgram_eq_ok_cons_iff {p : List CodeWord} {i : Instr} {is : List Instr} :
    decodeProgram p = .ok (i :: is) ↔
      ∃ op o rest, p = op :: o :: rest ∧ decode op o = .ok i ∧ decodeProgram rest = .ok is := by
  constructor
  · intro h
    unfold decodeProgram at h
    split at h
    · cases h
    · cases h
    · next op o rest =>
      split at h
      · next hi his =>
        cases h
        exact ⟨op, o, rest, rfl, hi, his⟩
      · cases h
      · cases h
  · rintro ⟨op, o, rest, rfl, hi, his⟩
    simp only [decodeProgram, hi, his]

theorem decodeProgram_encodeProgram_iff {is : List Instr} :
    decodeProgram (encodeProgram is) = .ok is ↔ ∀ i ∈ is, i.wellFormed = true := by
  induction is with
  | nil => simp [encodeProgram, decodeProgram]
  | cons i is ih => simp [encodeProgram, decodeProgram_eq_ok_cons_iff, decode_encode_iff, ih]

theorem length_of_decodeProgram {p : List CodeWord} {is : List Instr}
    (h : decodeProgram p = .ok is) : p.length = 2 * is.length := by
  induction is generalizing p with
  | nil => simp [decodeProgram_eq_ok_nil_iff.1 h]
  | cons i is ih =>
    obtain ⟨op, o, rest, rfl, -, hrest⟩ := decodeProgram_eq_ok_cons_iff.1 h
    simp only [List.length_cons, ih hrest]
    omega

/-- The k-th instruction is read from the k-th pair, at the addresses `2k` and `2k + 1` (R62). -/
theorem pair_of_decodeProgram {p : List CodeWord} {is : List Instr} {k : Nat} {i : Instr}
    (h : decodeProgram p = .ok is) (hk : is[k]? = some i) :
    ∃ op o, p[2 * k]? = some op ∧ p[2 * k + 1]? = some o ∧ decode op o = .ok i := by
  induction is generalizing p k with
  | nil => cases hk
  | cons j is ih =>
    obtain ⟨op, o, rest, rfl, hj, hrest⟩ := decodeProgram_eq_ok_cons_iff.1 h
    cases k with
    | zero =>
      cases hk
      exact ⟨op, o, rfl, rfl, hj⟩
    | succ k => simpa [Nat.mul_succ] using ih hrest hk

end Sys2Proof

/-! The statements about the encoding. -/

namespace Sys2Proof.Machine

/-- Settles O27, by induction over the instructions, for each direction of reading. -/
theorem programsAreReadBackFromTheirWords : Obligations.ProgramsAreReadBackFromTheirWords :=
  ⟨fun _ => decodeProgram_encodeProgram_iff.symm,
    fun _ _ h => ⟨length_of_decodeProgram h, fun _ _ => pair_of_decodeProgram h⟩⟩

/-- Settles O26: an instruction is well formed exactly when it is read back, and only BXC's operand
is lost in reading. -/
theorem decodeAndEncodeAgree : Obligations.DecodeAndEncodeAgree :=
  ⟨fun _ => decode_encode_iff.2, fun _ _ _ h =>
    ⟨wellFormed_of_decode h, encode_of_decode h, fun hbxc => opcode_of_decode_bxc (hbxc ▸ h)⟩⟩

/-- Settles O24: the decoder evaluated at each of the nine pairs. -/
theorem wordsFromTheTableDecode : Obligations.WordsFromTheTableDecode :=
  ⟨rfl, rfl, rfl, rfl, rfl, rfl, rfl, rfl, rfl⟩

/-- Settles O25: the illegal pairs are known from `decode_error_iff`, and the 64 views are counted. -/
theorem exactlyFivePairsAreIllegal : Obligations.ExactlyFivePairsAreIllegal :=
  ⟨fun _ _ => decode_error_iff.trans and_comm, by decide⟩

end Sys2Proof.Machine

/-! When a run has ended, when there is a next state, and where an instruction leaves `pc`. -/

namespace Sys2Proof.Machine

variable {s t : State}

/-- A state is Halted exactly when its latch is clear and `pc` is at `L` or past it (R32). -/
theorem State.status_eq_halted_iff : s.status = .halted ↔ s.fault = none ∧ s.len ≤ s.pc := by
  unfold State.status State.cause
  cases s.fault with
  | none => simp
  | some r => simp

theorem State.withCombo_answers (s : State) (opcode o : CodeWord) (effect : Nat → State) :
    ∃ t, s.withCombo opcode o effect = .next t := by
  obtain ⟨n, -, -, h⟩ | ⟨-, h⟩ := s.withCombo_cases opcode o effect
  · exact ⟨_, h⟩
  · exact ⟨_, h⟩

theorem execJnz_answers (o : CodeWord) (s : State) : ∃ t, execJnz o s = .next t := by
  unfold execJnz
  split_ifs <;> exact ⟨_, rfl⟩

/-- `exec` answers a next state for every instruction in every state (log entry 16). -/
theorem exec_answers (i : Instr) (s : State) : ∃ t, exec i s = .next t := by
  cases i with
  | adv | bst | out | bdv | cdv => exact s.withCombo_answers _ _ _
  | bxl | bxc => exact ⟨_, rfl⟩
  | jnz o => exact execJnz_answers o s

theorem step_answers_of_running (hrun : s.status = .running) : ∃ t, step s = .next t := by
  cases hfetch : s.fetchInstr with
  | error t => exact ⟨t, step_of_fetchInstr_error hrun hfetch⟩
  | ok i => exact step_of_fetchInstr_ok hrun hfetch ▸ exec_answers i s

namespace ExecEffect

variable {i : Instr}

/-- A taken JNZ that does not fault has put its operand into `pc` (R84, R120). -/
theorem pc_eq_of_jnz_taken {o : CodeWord} (h : ExecEffect (.jnz o) s t) (ha : s.a ≠ 0)
    (hclear : t.fault = none) : t.pc = o.toNat := by
  cases h with
  | write r v hr => cases hr
  | append _ _ hi _ => cases hi
  | fallThrough _ _ h0 => exact absurd h0 ha
  | jump _ hi => cases hi; rfl
  | jumpFault => cases hclear
  | malformed _ hi => cases hi

/-- Every instruction that does not fault, other than a taken JNZ, advances (R84). -/
theorem pc_eq_advance (h : ExecEffect i s t) (hclear : t.fault = none)
    (huntaken : (∀ o, i ≠ .jnz o) ∨ s.a = 0) : t.pc = s.pc + 2 := by
  cases h with
  | write r v _ => simp
  | append | fallThrough => rfl
  | jump o hi ha _ => exact (huntaken.elim (· o hi) ha).elim
  | jumpFault | malformed => cases hclear

end ExecEffect

/-- Both words of the pair that executes are in range (R45). -/
theorem State.AtPair.operand_lt_len {op o : CodeWord} (hpair : s.AtPair op o) :
    s.pc + 1 < s.len := by
  obtain ⟨-, -, -, ho⟩ := hpair
  exact (List.getElem?_eq_some_iff.1 ho).1

/-- Every step leaves `pc` inside the Program or at its end (R27, D5). -/
theorem pcInRange_of_step (hstep : step s = .next t) : t.PcInRange := by
  obtain ⟨hrun, -⟩ := step_next_cases hstep
  obtain ⟨-, hlt⟩ := s.status_eq_running_iff.1 hrun
  obtain ⟨cause, info, rfl⟩ | ⟨op, o, i, hpair, -, hexec⟩ := step_next_inversion hstep
  · exact hlt.le
  · have hpc := hpair.operand_lt_len
    cases execEffect_of_exec hexec with
    | write r v _ => cases r <;> exact hpc
    | append | fallThrough => exact hpc
    | jump _ _ _ ho => exact ho.le
    | jumpFault | malformed => exact hlt.le

end Sys2Proof.Machine

/-! What becomes of a register written before an instruction that does not read it. -/

namespace Sys2Proof.Machine

variable {s : State} {r : Reg} {v : Nat}

/-- A later write to the same register hides an earlier one; writes to two registers commute (R21). -/
theorem State.writeReg_writeReg (s : State) (r q : Reg) (v w : Nat) :
    (s.writeReg r v).writeReg q w =
      if some q = some r then s.writeReg q w else (s.writeReg q w).writeReg r v := by
  cases r <;> cases q <;> rfl

theorem State.advance_writeReg (s : State) (r : Reg) (v : Nat) :
    (s.writeReg r v).advance = s.advance.writeReg r v := by
  cases r <;> rfl

theorem State.raise_writeReg (s : State) (r : Reg) (v : Nat) (f : Fault) (x : FaultInfo) :
    (s.writeReg r v).raise f x = (s.raise f x).writeReg r v := by
  cases r <;> rfl

theorem State.jump_writeReg (s : State) (r : Reg) (v target : Nat) :
    (s.writeReg r v).jump target = (s.jump target).writeReg r v := by
  cases r <;> rfl

theorem State.appendOut_writeReg (s : State) (r : Reg) (v : Nat) (d : CodeWord) :
    (s.writeReg r v).appendOut d = (s.appendOut d).writeReg r v := by
  cases r <;> rfl

theorem State.writeReg_advance_writeReg (s : State) (r q : Reg) (v w : Nat) :
    ((s.writeReg r v).writeReg q w).advance =
      if some q = some r then (s.writeReg q w).advance
      else (s.writeReg q w).advance.writeReg r v := by
  rw [State.writeReg_writeReg]
  split_ifs
  · rfl
  · exact State.advance_writeReg _ r v

theorem State.setB_writeReg (s : State) (r : Reg) (v w : Nat) :
    (s.writeReg r v).setB w =
      if some .B = some r then s.setB w else (s.setB w).writeReg r v :=
  s.writeReg_advance_writeReg r .B v w

/-- A division reads A besides its operand (R23). -/
theorem State.divideInto_writeReg (hr : r ≠ .A) (q : Reg) (n : Nat) :
    (s.writeReg r v).divideInto q n =
      if some q = some r then s.divideInto q n else (s.divideInto q n).writeReg r v := by
  unfold State.divideInto
  rw [s.writeReg_reg_ne hr.symm v]
  exact s.writeReg_advance_writeReg r q v _

/-- The value of a combo operand depends on the register it names alone (R85). -/
theorem State.combo_writeReg {o : CodeWord} (hr : comboReads o ≠ some r) :
    (s.writeReg r v).combo o = s.combo o := by
  rcases codeWord_cases o with rfl | rfl | rfl | rfl | rfl | rfl | rfl | rfl
  case inr.inr.inr.inr.inl | inr.inr.inr.inr.inr.inl | inr.inr.inr.inr.inr.inr.inl =>
    exact congrArg some (s.writeReg_reg_ne (fun e => hr (congrArg some e)) v)
  all_goals rfl

/-- An instruction with a combo operand that does not name `r`, and whose effect writes the register
`written`: the value put into `r` before it stays, unless it is written over. -/
theorem State.withCombo_writeReg {opcode o : CodeWord} {effect effect' : Nat → State}
    {written : Option Reg} (hr : comboReads o ≠ some r)
    (heffect : ∀ n, effect' n = if written = some r then effect n else (effect n).writeReg r v) :
    (s.writeReg r v).withCombo opcode o effect' =
      if written = some r ∧ CodeWord.comboLegal o = true then s.withCombo opcode o effect
      else mapNext (fun t => t.writeReg r v) (s.withCombo opcode o effect) := by
  unfold State.withCombo
  rw [State.combo_writeReg hr]
  cases hn : s.combo o with
  | none =>
    have hillegal : ¬ CodeWord.comboLegal o = true := fun h =>
      (comboLegal_iff o).1 h ((s.combo_eq_none_iff o).1 hn)
    rw [if_neg fun h => hillegal h.2]
    simp only [State.raiseMalformed, State.raise_writeReg, State.writeReg_pc, mapNext]
  | some n =>
    have hlegal : CodeWord.comboLegal o = true := (comboLegal_iff o).2 fun h7 => by
      simp [(s.combo_eq_none_iff o).2 h7] at hn
    simp only [heffect, hlegal, and_true]
    split_ifs <;> rfl

theorem execJnz_writeReg (hr : r ≠ .A) (o : CodeWord) :
    execJnz o (s.writeReg r v) = mapNext (fun t => t.writeReg r v) (execJnz o s) := by
  unfold execJnz State.jumpTaken State.targetInRange State.len State.raiseJumpTarget
  simp only [s.writeReg_reg_ne hr.symm, State.writeReg_program, State.writeReg_pc,
    State.jump_writeReg, State.advance_writeReg, State.raise_writeReg]
  split_ifs <;> rfl

end Sys2Proof.Machine

/-! The statements about the step and the operands. -/

namespace Sys2Proof.Machine

/-- Settles O49: `pc` stays in range along the run, so a halt, which needs `pc` at `L` or past it, is
at `L`. -/
theorem runsStayInTheProgramAndHaltAtItsEnd : Obligations.RunsStayInTheProgramAndHaltAtItsEnd := by
  intro a0 b0 c0 p s hr
  have hprogram : s.program = p := programNeverChanges _ _ hr
  have hrange : s.PcInRange :=
    hr.keeps (P := fun u => u.PcInRange) (fun _ _ _ => pcInRange_of_step) (Nat.zero_le _)
  subst hprogram
  refine ⟨hrange, fun hhalt => ?_, fun i hfetch => ?_⟩
  · obtain ⟨-, hend⟩ := State.status_eq_halted_iff.1 hhalt
    exact Nat.le_antisymm hrange hend
  · obtain ⟨heven, _, _, _, ho, _⟩ := State.fetchInstr_ok_iff.1 hfetch
    exact ⟨heven, (List.getElem?_eq_some_iff.1 ho).1⟩

/-- Settles O37, for each instruction from what its effect makes of the earlier write. -/
theorem unreadRegistersHaveNoInfluence : Obligations.UnreadRegistersHaveNoInfluence := by
  intro i r v s hread
  cases i with
  | adv o | bdv o | cdv o =>
    simp only [readsReg, Bool.or_eq_false_iff, beq_eq_false_iff_ne] at hread
    obtain ⟨hA, hcombo⟩ := hread
    exact State.withCombo_writeReg hcombo fun n => State.divideInto_writeReg hA _ n
  | bst o =>
    exact State.withCombo_writeReg (beq_eq_false_iff_ne.1 hread) fun n =>
      s.setB_writeReg r v (lowDigit n)
  | out o =>
    refine State.withCombo_writeReg (written := none) (beq_eq_false_iff_ne.1 hread) fun n => ?_
    rw [State.appendOut_writeReg, State.advance_writeReg]
    rfl
  | bxl o =>
    have hB : Reg.B ≠ r := (beq_eq_false_iff_ne.1 hread).symm
    simp [exec, execBxl, State.setB_writeReg, s.writeReg_reg_ne hB, writesReg, hB, mapNext]
  | bxc =>
    simp only [readsReg, Bool.or_eq_false_iff, beq_eq_false_iff_ne] at hread
    obtain ⟨hB, hC⟩ := And.imp Ne.symm Ne.symm hread
    simp [exec, execBxc, State.setB_writeReg, s.writeReg_reg_ne hB, s.writeReg_reg_ne hC,
      writesReg, hB, mapNext]
  | jnz o =>
    exact execJnz_writeReg (beq_eq_false_iff_ne.1 hread) o

/-- Settles O35: each effect that is no fault either advances or is a taken JNZ's. -/
theorem pcAdvancesByTwoUnlessAJumpIsTaken : Obligations.PcAdvancesByTwoUnlessAJumpIsTaken := by
  intro i s _ _
  obtain ⟨t, hexec⟩ := exec_answers i s
  have heff := execEffect_of_exec hexec
  refine ⟨t, hexec, fun hclear => ⟨fun o hi ha => ?_, heff.pc_eq_advance hclear⟩⟩
  exact (hi ▸ heff).pc_eq_of_jnz_taken ha hclear

/-- Settles O28: the words at the k-th pair are read back as the k-th instruction. -/
theorem stepRunsTheInstructionAtItsPair : Obligations.StepRunsTheInstructionAtItsPair := by
  intro s is k i hwf hprogram hclear hpc hk
  obtain ⟨op, o, hop, ho, hdec⟩ :=
    pair_of_decodeProgram (decodeProgram_encodeProgram_iff.2 hwf) hk
  have hpair : s.AtPair op o := by
    refine ⟨hclear, by omega, ?_, ?_⟩
    · rw [hprogram, hpc, hop]
    · rw [hprogram, hpc, ho]
  exact hpair.step_eq_exec hdec

/-- Settles O4: a fetch that fails answers a next state, and so does every instruction. -/
theorem aStepExistsExactlyWhenRunning : Obligations.AStepExistsExactlyWhenRunning := by
  intro s
  rw [← s.status_eq_running_iff]
  refine ⟨fun ⟨t, hstep⟩ => ?_, step_answers_of_running⟩
  obtain ⟨hrun, -⟩ := step_next_cases hstep
  exact hrun

/-- Settles O7: a launch has a clear latch and `pc = 0`, so it is Halted exactly at `L = 0`. -/
theorem emptyProgramHaltsAtOnce : Obligations.EmptyProgramHaltsAtOnce := by
  intro a0 b0 c0 p
  refine ⟨rfl, ?_⟩
  rw [State.status_eq_halted_iff]
  simp [State.launch]

/-- Settles O9, by evaluation at each operand word. -/
theorem comboResolvesLiteralsAndLiveRegisters :
    Obligations.ComboResolvesLiteralsAndLiveRegisters :=
  fun _ => ⟨rfl, rfl, rfl, rfl, rfl, rfl, rfl, rfl⟩

/-- Settles O10: BXL by its definition, JNZ by its taken jump inside the Program. -/
theorem literalOperandsAreNumbers : Obligations.LiteralOperandsAreNumbers :=
  fun _ _ => ⟨rfl, exec_jnz_of_inside⟩

/-- Settles O11: opcode 4 decodes to BXC with every operand word, and without one the pair ends
past the Program. -/
theorem bxcOperandIsFetchedAndIgnored : Obligations.BxcOperandIsFetchedAndIgnored := by
  intro s
  refine ⟨fun o hpair => hpair.step_eq_exec (i := .bxc) rfl, fun hclear heven hop ho => ?_⟩
  obtain ⟨hlt, -⟩ := List.getElem?_eq_some_iff.1 hop
  have hlast : s.pc + 1 = s.len := Nat.le_antisymm hlt (List.getElem?_eq_none_iff.1 ho)
  exact ⟨_, step_of_last_word (s.status_eq_running_iff.2 ⟨hclear, hlt⟩) heven hlast⟩

/-- Settles O29, from the step at a pair that decodes. -/
theorem stepRunsTheDecodedInstruction : Obligations.StepRunsTheDecodedInstruction :=
  fun _ _ _ _ hpair hdec => hpair.step_eq_exec hdec

end Sys2Proof.Machine

/-! What a division answers when its operand has a value, and which instruction changes A. -/

namespace Sys2Proof.Machine

variable {s t : State} {o : CodeWord} {n : Nat}

theorem State.exists_combo_of_ne_seven (s : State) (ho : o ≠ 7) : ∃ n, s.combo o = some n :=
  Option.ne_none_iff_exists'.1 (mt (s.combo_eq_none_iff o).1 ho)

/-- Operand words below 4 are their own values (R85). -/
theorem State.combo_of_lt_four (s : State) (ho : o.toNat < 4) : s.combo o = some o.toNat := by
  rcases codeWord_cases o with rfl | rfl | rfl | rfl | rfl | rfl | rfl | rfl
  case inl | inr.inl | inr.inr.inl | inr.inr.inr.inl => rfl
  all_goals exact absurd ho (by decide)

theorem State.withCombo_of_combo (opcode : CodeWord) (effect : Nat → State)
    (hn : s.combo o = some n) : s.withCombo opcode o effect = .next (effect n) := by
  simp only [State.withCombo, hn]

theorem State.divideInto_eq (s : State) (r : Reg) (n : Nat) :
    s.divideInto r n = (s.writeReg r (s.a / 2 ^ n)).advance := by
  rw [State.divideInto, divPow2_eq_div, State.reg_A]

/-- What the family shares (R103): a division whose operand has a value writes the quotient and
advances. -/
theorem State.withCombo_divideInto_of_combo (opcode : CodeWord) (r : Reg)
    (hn : s.combo o = some n) :
    s.withCombo opcode o (s.divideInto r) = .next (s.writeReg r (s.a / 2 ^ n)).advance := by
  rw [State.withCombo_of_combo opcode _ hn, State.divideInto_eq]

theorem exec_adv_of_combo (hn : s.combo o = some n) :
    exec (.adv o) s = .next { s with a := s.a / 2 ^ n, pc := s.pc + 2 } :=
  State.withCombo_divideInto_of_combo 0 .A hn

theorem exec_bdv_of_combo (hn : s.combo o = some n) :
    exec (.bdv o) s = .next { s with b := s.a / 2 ^ n, pc := s.pc + 2 } :=
  State.withCombo_divideInto_of_combo 6 .B hn

theorem exec_cdv_of_combo (hn : s.combo o = some n) :
    exec (.cdv o) s = .next { s with c := s.a / 2 ^ n, pc := s.pc + 2 } :=
  State.withCombo_divideInto_of_combo 7 .C hn

/-- ADV is the only instruction that writes register A (R23). -/
theorem eq_adv_of_writesReg_A {i : Instr} (h : writesReg i = some .A) : ∃ o, i = .adv o := by
  cases i with
  | adv o => exact ⟨o, rfl⟩
  | bxl | bst | jnz | bxc | out | bdv | cdv => cases h

/-- A step that changes A is an ADV whose operand has a value, and A becomes its quotient (R100). -/
theorem adv_of_step_of_a_ne (hstep : step s = .next t) (hne : t.a ≠ s.a) :
    ∃ o n, s.AtPair 0 o ∧ s.combo o = some n ∧ t.a = s.a / 2 ^ n := by
  obtain ⟨cause, info, rfl⟩ | ⟨op, w, i, hpair, hdec, hexec⟩ := step_next_inversion hstep
  · exact absurd rfl hne
  · have hwrites : writesReg i = some .A :=
      Classical.not_not.1 (mt (execEffect_of_exec hexec).reg_eq hne)
    obtain ⟨o, rfl⟩ := eq_adv_of_writesReg_A hwrites
    cases encode_of_decode hdec nofun
    obtain ⟨n, hn⟩ := s.exists_combo_of_ne_seven
      ((comboLegal_iff w).1 (wellFormed_of_decode hdec))
    cases (exec_adv_of_combo hn).symm.trans hexec
    exact ⟨w, n, hpair, hn, rfl⟩

theorem a_le_of_step (hstep : step s = .next t) : t.a ≤ s.a := by
  by_cases heq : t.a = s.a
  · exact heq.le
  · obtain ⟨-, n, -, -, hquot⟩ := adv_of_step_of_a_ne hstep heq
    exact hquot ▸ Nat.div_le_self s.a (2 ^ n)

end Sys2Proof.Machine

/-! The statements about division. -/

namespace Sys2Proof.Machine

/-- Settles O22: a number below `2^n` has the quotient 0. -/
theorem largeExponentsGiveZero : Obligations.LargeExponentsGiveZero := by
  intro s o n hn hlt
  have hzero : s.a / 2 ^ n = 0 := Nat.div_eq_of_lt hlt
  exact ⟨hzero ▸ exec_adv_of_combo hn, hzero ▸ exec_bdv_of_combo hn, hzero ▸ exec_cdv_of_combo hn⟩

/-- Settles O23: literal operands are their own values in both states, and the two quotients are
one. -/
theorem successiveAdvAddTheirExponents : Obligations.SuccessiveAdvAddTheirExponents := by
  intro s m n hm hn
  have hquot : s.a / 2 ^ m.toNat / 2 ^ n.toNat = s.a / 2 ^ (m.toNat + n.toNat) := by
    rw [Nat.div_div_eq_div_mul, pow_add]
  exact ⟨_, exec_adv_of_combo (s.combo_of_lt_four hm),
    hquot ▸ exec_adv_of_combo (State.combo_of_lt_four _ hn)⟩

/-- Settles O42: only ADV changes A, and no quotient is above A; then by induction over runs. -/
theorem registerANeverGrows : Obligations.RegisterANeverGrows :=
  ⟨fun _ _ => adv_of_step_of_a_ne, fun s _ hr =>
    hr.keeps (P := fun u => u.a ≤ s.a) (fun _ _ h hstep => (a_le_of_step hstep).trans h) le_rfl⟩

/-- Settles O12: the operand's value is that of the register before the instruction. -/
theorem selfReferringDivisionsUseTheOldValue : Obligations.SelfReferringDivisionsUseTheOldValue :=
  fun _ => ⟨exec_adv_of_combo rfl, exec_bdv_of_combo rfl, exec_cdv_of_combo rfl, rfl⟩

/-- Settles O13: ADV 4 is a large exponent, since `A < 2^A`. -/
theorem advDividesAIntoA : Obligations.AdvDividesAIntoA := by
  intro s o
  refine ⟨fun ho => ?_, ?_, fun hpair => ⟨_, hpair.step_eq_raiseMalformed rfl⟩⟩
  · obtain ⟨n, hn⟩ := s.exists_combo_of_ne_seven ho
    exact ⟨decodeCombo_ok_iff.2 ⟨ho, rfl⟩, n, hn, Nat.div_le_self _ _, exec_adv_of_combo hn⟩
  · obtain ⟨hadv, -, -⟩ := largeExponentsGiveZero s 4 s.a rfl Nat.lt_two_pow_self
    exact hadv

/-- Settles O14: BDV 4 is a large exponent, since `A < 2^A`; BDV 0 shifts by nothing. -/
theorem bdvDividesAIntoB : Obligations.BdvDividesAIntoB := by
  intro s o
  refine ⟨fun ho => ?_, rfl, ?_, fun hpair => ⟨_, hpair.step_eq_raiseMalformed rfl⟩⟩
  · obtain ⟨n, hn⟩ := s.exists_combo_of_ne_seven ho
    exact ⟨decodeCombo_ok_iff.2 ⟨ho, rfl⟩, n, hn, exec_bdv_of_combo hn⟩
  · obtain ⟨-, hbdv, -⟩ := largeExponentsGiveZero s 4 s.a rfl Nat.lt_two_pow_self
    exact hbdv

/-- Settles O15: the quotient from the family's rule; CDV 0 shifts by nothing. -/
theorem cdvDividesAIntoC : Obligations.CdvDividesAIntoC := by
  intro s o
  refine ⟨fun ho => ?_, rfl, fun hpair => ⟨_, hpair.step_eq_raiseMalformed rfl⟩⟩
  obtain ⟨n, hn⟩ := s.exists_combo_of_ne_seven ho
  exact ⟨decodeCombo_ok_iff.2 ⟨ho, rfl⟩, n, hn, exec_cdv_of_combo hn⟩

end Sys2Proof.Machine

/-! What BST answers when its operand has a value, and a `xor` with a code word. -/

namespace Sys2Proof.Machine

theorem exec_bst_of_combo {s : State} {o : CodeWord} {n : Nat} (hn : s.combo o = some n) :
    exec (.bst o) s = .next { s with b := n % 8, pc := s.pc + 2 } :=
  State.withCombo_of_combo 2 _ hn

/-- A code word has no bit above bit 2 (R7), so a `xor` with it keeps the bits above (R110). -/
theorem xor_codeWord_div_eight (b : Nat) (o : CodeWord) : (b ^^^ o.toNat) / 8 = b / 8 := by
  have hdiv : (b ^^^ o.toNat) / 2 ^ 3 = b / 2 ^ 3 ^^^ o.toNat / 2 ^ 3 := Nat.xor_div_two_pow
  have hhigh : o.toNat / 2 ^ 3 = 0 := Nat.div_eq_of_lt o.isLt
  rw [hhigh, Nat.xor_zero] at hdiv
  exact hdiv

/-- A code word is its own low digit (R7), so a `xor` with it acts on the low digit (R110). -/
theorem xor_codeWord_mod_eight (b : Nat) (o : CodeWord) :
    (b ^^^ o.toNat) % 8 = b % 8 ^^^ o.toNat := by
  have hmod : (b ^^^ o.toNat) % 2 ^ 3 = b % 2 ^ 3 ^^^ o.toNat % 2 ^ 3 := Nat.xor_mod_two_pow
  have hlow : o.toNat % 2 ^ 3 = o.toNat := Nat.mod_eq_of_lt o.isLt
  rw [hlow] at hmod
  exact hmod

end Sys2Proof.Machine

/-! The statements about the bitwise instructions. -/

namespace Sys2Proof.Machine

/-- Settles O16: the two BXL are `exec`'s own equation, and the operand word cancels. -/
theorem bxlXorsALiteralIntoB : Obligations.BxlXorsALiteralIntoB := by
  intro s o
  have hcancel : (s.b ^^^ o.toNat) ^^^ o.toNat = s.b := Nat.xor_xor_cancel_right _ _
  have hback : exec (.bxl o) { s with b := s.b ^^^ o.toNat, pc := s.pc + 2 } =
      .next { s with b := (s.b ^^^ o.toNat) ^^^ o.toNat, pc := s.pc + 4 } := rfl
  rw [hcancel] at hback
  exact ⟨rfl, _, rfl, rfl, xor_codeWord_div_eight s.b o, xor_codeWord_mod_eight s.b o, hback⟩

/-- Settles O18: the bits of a `xor`, and the opcode word that is the Program's last. -/
theorem bxcXorsCIntoB : Obligations.BxcXorsCIntoB := by
  intro s
  have hkeep (hzero : s.c = 0) : s.b ^^^ s.c = s.b := by rw [hzero, Nat.xor_zero]
  refine ⟨fun _ => rfl, ⟨_, rfl, rfl, Nat.testBit_xor s.b s.c, Nat.xor_eq_zero_iff.2, hkeep⟩,
    fun hclear heven hlast _ => ?_⟩
  have hrun : s.status = .running :=
    s.status_eq_running_iff.2 ⟨hclear, hlast ▸ Nat.lt_succ_self s.pc⟩
  exact ⟨_, step_of_last_word hrun heven hlast⟩

/-- Settles O17: the low digit of the operand's value, and the pair `2,7` that does not decode. -/
theorem bstPutsTheLowDigitIntoB : Obligations.BstPutsTheLowDigitIntoB := by
  intro s o
  refine ⟨fun ho => ?_, fun hpair => ⟨_, hpair.step_eq_raiseMalformed rfl⟩⟩
  obtain ⟨n, hn⟩ := s.exists_combo_of_ne_seven ho
  exact ⟨decodeCombo_ok_iff.2 ⟨ho, rfl⟩, n, hn, exec_bst_of_combo hn⟩

end Sys2Proof.Machine

/-! When JNZ falls through, when it has jumped, and the runs of a step that changes nothing. -/

namespace Sys2Proof.Machine

variable {s t : State}

/-- A JNZ that is not taken does not look at its operand (R120). -/
theorem exec_jnz_of_a_eq_zero (o : CodeWord) (ha : s.a = 0) :
    exec (.jnz o) s = .next s.advance := by
  have huntaken : ¬ s.jumpTaken = true := fun h => s.jumpTaken_iff.1 h ha
  simp only [exec, execJnz, if_neg huntaken]

/-- Where an instruction that does not fault has not advanced `pc`, a taken JNZ has put its operand
there, be it the old `pc` (R84, R120). -/
theorem ExecEffect.jnz_taken_of_pc_ne_advance {i : Instr} (h : ExecEffect i s t)
    (hclear : t.fault = none) (hne : t.pc ≠ s.pc + 2) :
    ∃ o, i = .jnz o ∧ s.a ≠ 0 ∧ t.pc = o.toNat := by
  obtain ⟨hjnz, ha⟩ := not_or.1 (mt (h.pc_eq_advance hclear) hne)
  obtain ⟨o, rfl⟩ := not_forall_not.1 hjnz
  exact ⟨o, rfl, ha, h.pc_eq_of_jnz_taken ha hclear⟩

theorem run_eq_of_step_eq_self (hloop : step s = .next s) (k : Nat) : core.run k s = .next s := by
  induction k with
  | zero => rfl
  | succ k ih =>
    have hcore : core.step s = .next s := hloop
    simp only [Host.Core.run, hcore, ih]

theorem Reaches.eq_of_step_eq_self (hloop : step s = .next s) (hr : Reaches s t) : t = s := by
  refine hr.keeps (P := fun u => u = s) (fun u v hu hstep => ?_) rfl
  subst hu
  exact Host.Outcome.next.inj (hstep.symm.trans hloop)

end Sys2Proof.Machine

/-! The statements about the jump. -/

namespace Sys2Proof.Machine

/-- Settles O43: a step whose fetch faults sets the latch, and an instruction that does not advance
is a taken JNZ, whose operand is a code word. -/
theorem jumpsReachOnlyAddressesZeroToSeven : Obligations.JumpsReachOnlyAddressesZeroToSeven := by
  intro s t hstep hclear hne
  obtain ⟨cause, info, rfl⟩ | ⟨op, w, i, hpair, hdec, hexec⟩ := step_next_inversion hstep
  · cases hclear
  · obtain ⟨o, rfl, ha, hpc⟩ := (execEffect_of_exec hexec).jnz_taken_of_pc_ne_advance hclear hne
    cases encode_of_decode hdec nofun
    exact ⟨hpc ▸ Nat.le_of_lt_succ w.isLt, ha, w, hpair, hpc⟩

/-- Settles O44: the target is `pc` itself, so it is inside the Program and the jump changes
nothing. -/
theorem jumpToItselfNeverEnds : Obligations.JumpToItselfNeverEnds := by
  intro s o hpair htarget ha
  have hrun : s.status = .running := hpair.status_eq_running
  obtain ⟨-, hlt⟩ := s.status_eq_running_iff.1 hrun
  have hloop : step s = .next s :=
    calc step s = exec (.jnz o) s := hpair.step_eq_exec rfl
      _ = .next (s.jump o.toNat) := exec_jnz_of_inside ha (htarget ▸ hlt)
      _ = .next s := by rw [htarget]; rfl
  refine ⟨hloop, run_eq_of_step_eq_self hloop, fun t hr => ?_⟩
  obtain rfl := hr.eq_of_step_eq_self hloop
  exact ⟨rfl, hrun⟩

/-- Settles O20: JNZ's three effects, by A and by its target. -/
theorem jnzJumpsOrFallsThrough : Obligations.JnzJumpsOrFallsThrough :=
  fun _ o => ⟨rfl, exec_jnz_of_a_eq_zero o, exec_jnz_of_inside,
    fun ha ho => ⟨_, exec_jnz_of_outside ha ho⟩⟩

end Sys2Proof.Machine

/-! What OUT answers when its operand has a value. -/

namespace Sys2Proof.Machine

theorem exec_out_of_combo {s : State} {o : CodeWord} {n : Nat} (hn : s.combo o = some n) :
    exec (.out o) s = .next { s with out := s.out ++ [lowDigitWord n], pc := s.pc + 2 } :=
  State.withCombo_of_combo 5 _ hn

end Sys2Proof.Machine

/-! The statement about the output. -/

namespace Sys2Proof.Machine

/-- Settles O19: the appended word is the low digit of the operand's value, and the pair `5,7` does
not decode. -/
theorem outAppendsTheLowDigit : Obligations.OutAppendsTheLowDigit := by
  intro s o
  refine ⟨fun ho => ?_, fun hpair => ⟨_, hpair.step_eq_raiseMalformed rfl⟩⟩
  obtain ⟨n, hn⟩ := s.exists_combo_of_ne_seven ho
  exact ⟨decodeCombo_ok_iff.2 ⟨ho, rfl⟩, n, lowDigitWord n, hn, lowDigitWord_toNat n,
    exec_out_of_combo hn⟩

end Sys2Proof.Machine

/-! What a set latch does: an instruction keeps it, and the run is over. -/

namespace Sys2Proof.Machine

variable {s t : State}

/-- An instruction keeps the latch, or takes a fault, which sets it (R147, R149). -/
theorem ExecEffect.fault_ne_none {i : Instr} (h : ExecEffect i s t) (hset : s.fault ≠ none) :
    t.fault ≠ none := by
  cases h with
  | write r v _ => simpa using hset
  | append | fallThrough | jump => exact hset
  | jumpFault | malformed => exact Option.some_ne_none _

/-- A Faulted state hands its condition to the caller (R32; log entry 4). -/
theorem step_of_cause {f : Fault} (hcause : s.cause = some f) : step s = .fault f := by
  simp only [step, State.status, hcause]

theorem step_ne_next_of_cause {f : Fault} (hcause : s.cause = some f) (t : State) :
    step s ≠ .next t := by
  rw [step_of_cause hcause]
  exact nofun

theorem Reaches.eq_of_step_ne_next (hstuck : ∀ u, step s ≠ .next u) (hr : Reaches s t) :
    t = s := by
  refine hr.keeps (P := fun u => u = s) (fun u v hu hstep => ?_) rfl
  subst hu
  exact absurd hstep (hstuck v)

end Sys2Proof.Machine

/-! The statement about the fault latch. -/

namespace Sys2Proof.Machine

/-- Settles O8: no effect of an instruction clears the latch, a Faulted state answers its condition
and so is stuck, and a launch has a clear latch. -/
theorem noReturnFromAFault : Obligations.NoReturnFromAFault :=
  ⟨fun _ _ _ hset hexec => (execEffect_of_exec hexec).fault_ne_none hset,
    fun _ t _ hcause => step_ne_next_of_cause hcause t,
    fun _ _ _ hcause hr => hr.eq_of_step_ne_next (step_ne_next_of_cause hcause),
    fun _ _ _ _ => rfl⟩

end Sys2Proof.Machine

/-! How a step of an odd-length Program moves `pc`, which state a faulting step leaves, what a set
latch shows, and what a combo meaning does with operand 7. -/

namespace Sys2Proof.Machine

variable {s t : State}

/-- No step of an odd-length Program reaches its end (R45): an instruction that advances does so
from an even `pc`, and a jump stays inside (D5). -/
theorem beforeOddEnd_of_step (hodd : s.len % 2 = 1) (hstep : step s = .next t) :
    t.BeforeOddEnd := by
  have hlen : t.len = s.len := congrArg List.length (program_eq_of_step hstep)
  obtain ⟨hrun, -⟩ := step_next_cases hstep
  obtain ⟨-, hlt⟩ := s.status_eq_running_iff.1 hrun
  have hrange : t.pc ≤ t.len := pcInRange_of_step hstep
  have hne : t.pc ≠ s.len := by
    obtain ⟨cause, info, rfl⟩ | ⟨op, o, i, ⟨-, heven, -⟩, -, hexec⟩ := step_next_inversion hstep
    · exact hlt.ne
    · intro hend
      obtain ⟨target, -, -, hin, rfl⟩ :=
        (execEffect_of_exec hexec).jump_of_pc_ne (by omega) (by omega)
      exact hin.ne hend
  exact ⟨hlen ▸ hodd, Nat.lt_of_le_of_ne hrange (hlen ▸ hne)⟩

/-- The four states in which a step can leave a fault, with the word each one records (R143). -/
theorem raised_of_step (hstep : step s = .next t) (hset : t.fault ≠ none) :
    t = s.raiseMisaligned ∨ t = s.raiseOperandFetch ∨
      (∃ op, s.memRead s.pc = some op ∧ t = s.raiseMalformed op) ∨
      ∃ o, s.memRead (s.pc + 1) = some o ∧ t = s.raiseJumpTarget o := by
  obtain ⟨hrun, herr | ⟨i, hfetch, hexec⟩⟩ := step_next_cases hstep
  · obtain ⟨-, h⟩ | ⟨-, -, h⟩ | ⟨-, op, -, -, hop, -, -, h⟩ := State.fetchInstr_error_cases herr
    · exact .inl h
    · exact .inr (.inl h)
    · exact .inr (.inr (.inl ⟨op, hop, h⟩))
  · obtain ⟨hclear, -⟩ := s.status_eq_running_iff.1 hrun
    obtain ⟨-, op, w, -, hw, hdec⟩ := State.fetchInstr_ok_iff.1 hfetch
    cases execEffect_of_exec hexec with
    | write | append | fallThrough | jump => exact absurd hclear (by simpa using hset)
    | jumpFault o hi _ _ =>
      subst hi
      cases encode_of_decode hdec nofun
      exact .inr (.inr (.inr ⟨_, hw, rfl⟩))
    | malformed _ hi => exact absurd (wellFormed_of_decode hdec) (by simp [hi])

theorem State.cause_eq_none_iff : s.cause = none ↔ s.fault = none := Option.map_eq_none_iff

theorem State.exists_cause_of_fault_ne_none (hset : s.fault ≠ none) : ∃ f, s.cause = some f :=
  Option.ne_none_iff_exists'.1 (mt State.cause_eq_none_iff.1 hset)

/-- The host of a faulted run receives the condition (R176). -/
theorem State.hostView_of_cause {f : Fault} (hcause : s.cause = some f) :
    s.hostView = .failed f := by
  simp only [State.hostView, State.status, hcause]

/-- A combo meaning with operand 7 takes the fault that decoding takes at its pair (R85, R141; log
entry 16). -/
theorem State.withCombo_seven (s : State) {opcode : CodeWord} (effect : Nat → State)
    (hdec : decode opcode 7 = .error (.comboOperandSeven opcode)) :
    Raises (s.withCombo opcode 7 effect) s .malformedOperand ∧
      (s.AtPair opcode 7 → step s = s.withCombo opcode 7 effect) :=
  ⟨⟨_, rfl⟩, fun hpair => hpair.step_eq_raiseMalformed hdec⟩

end Sys2Proof.Machine

/-! Which integers a launch takes. -/

namespace Sys2Proof.Machine

/-- The integers 0 to 7 are the numbers of the code words, one word each (R7). -/
theorem codeWord_toNat_eq_iff {a : CodeWord} {w : Int} :
    (a.toNat : Int) = w ↔ (0 ≤ w ∧ w < 8) ∧ a = BitVec.ofNat Config.codeWordBits w.toNat := by
  constructor
  · rintro rfl
    have hlt : a.toNat < 8 := a.isLt
    exact ⟨by omega, by simp⟩
  · rintro ⟨⟨hnonneg, hlt⟩, rfl⟩
    rw [BitVec.toNat_ofNat, Nat.mod_eq_of_lt (by omega), Int.toNat_of_nonneg hnonneg]

theorem codeWords_cons_ok_iff {addr : Nat} {w : Int} {ws : List Int} {p : List CodeWord} :
    codeWords addr (w :: ws) = .ok p ↔ ∃ a rest, p = a :: rest ∧ (a.toNat : Int) = w ∧
      codeWords (addr + 1) ws = .ok rest := by
  simp only [codeWord_toNat_eq_iff]
  rw [codeWords]
  split_ifs with hw
  · cases codeWords (addr + 1) ws <;> simp [hw, eq_comm]
  · simp [hw]

/-- The words read from a list of integers are those whose numbers the integers are, so that nothing
is clamped or masked (R69). -/
theorem codeWords_ok_iff {addr : Nat} {ws : List Int} {p : List CodeWord} :
    codeWords addr ws = .ok p ↔ p.map (fun w => (w.toNat : Int)) = ws := by
  induction ws generalizing addr p with
  | nil => simp [codeWords]
  | cons w ws ih => simp only [codeWords_cons_ok_iff, ih, List.map_eq_cons_iff]

theorem exists_map_toNat_eq_iff {ws : List Int} :
    (∃ p : List CodeWord, p.map (fun w => (w.toNat : Int)) = ws) ↔ ∀ w ∈ ws, 0 ≤ w ∧ w < 8 := by
  change ws ∈ Set.range (List.map fun w : CodeWord => (w.toNat : Int)) ↔ _
  simp [Set.range_list_map, codeWord_toNat_eq_iff]

/-- A launch given integers succeeds on natural numbers and code words, and launches those (R171,
D13). -/
theorem launchIntegers_ok_iff {a0 b0 c0 : Int} {ws : List Int} {s : State} :
    launchIntegers a0 b0 c0 ws = .ok s ↔ 0 ≤ a0 ∧ 0 ≤ b0 ∧ 0 ≤ c0 ∧
      ∃ p, p.map (fun w => (w.toNat : Int)) = ws ∧
        s = State.launch a0.toNat b0.toNat c0.toNat p := by
  simp only [← codeWords_ok_iff (addr := 0)]
  unfold launchIntegers
  split_ifs with ha hb hc
  · simp [ha.not_ge]
  · simp [hb.not_ge]
  · simp [hc.not_ge]
  · cases codeWords 0 ws <;> simp [not_lt.1 ha, not_lt.1 hb, not_lt.1 hc, eq_comm]

end Sys2Proof.Machine

/-! The statements about the invariants, the launch, the faults and the host's view. -/

namespace Sys2Proof.Machine

/-- Settles O45: a step leaves `pc` in range wherever it began. -/
theorem everyStepKeepsPcInRange : Obligations.EveryStepKeepsPcInRange :=
  fun _ _ _ => pcInRange_of_step

/-- Settles O46: a step begins with a clear latch, so what it leaves there it has raised itself, on
its own cause. -/
theorem everyStepKeepsTheLatchExplained : Obligations.EveryStepKeepsTheLatchExplained :=
  fun _ _ _ => latchExplained_of_step

/-- Settles O47: `pc` is below `L` again, since an even `pc + 2` is not an odd `L`. -/
theorem everyStepOfAnOddProgramStaysBeforeItsEnd :
    Obligations.EveryStepOfAnOddProgramStaysBeforeItsEnd :=
  fun _ _ ⟨hodd, _⟩ => beforeOddEnd_of_step hodd

/-- Settles O3: the integers that are the numbers of code words are those in 0..7. -/
theorem launchIsRefusedExactlyOutsideItsTypes :
    Obligations.LaunchIsRefusedExactlyOutsideItsTypes := by
  intro a0 b0 c0 ws
  refine ⟨?_, fun s hs => ?_⟩
  · rw [← exists_map_toNat_eq_iff]
    constructor
    · rintro ⟨s, hs⟩
      obtain ⟨ha, hb, hc, p, hp, -⟩ := launchIntegers_ok_iff.1 hs
      exact ⟨ha, hb, hc, p, hp⟩
    · rintro ⟨ha, hb, hc, p, hp⟩
      exact ⟨_, launchIntegers_ok_iff.2 ⟨ha, hb, hc, p, hp, rfl⟩⟩
  · obtain ⟨-, -, -, p, hp, rfl⟩ := launchIntegers_ok_iff.1 hs
    exact ⟨p, rfl, hp⟩

/-- Settles O31: each of the four faults changes the latch alone, and a set latch is a condition
that stops the run and is what the host receives. -/
theorem faultsArePrecise : Obligations.FaultsArePrecise := by
  intro s t hstep hset
  obtain ⟨f, hcause⟩ := State.exists_cause_of_fault_ne_none hset
  refine ⟨?_, step_ne_next_of_cause hcause, f, hcause, State.hostView_of_cause hcause⟩
  obtain rfl | rfl | ⟨op, -, rfl⟩ | ⟨o, -, rfl⟩ := raised_of_step hstep hset <;> rfl

/-- Settles O32: the record of each of the four faults, and the code of each cause. -/
theorem latchRecordsPcAndWord : Obligations.LatchRecordsPcAndWord := by
  refine ⟨fun s t r hstep hr => ?_, fun s => ?_⟩
  · have hset : t.fault ≠ none := by simp [hr]
    obtain rfl | rfl | ⟨op, hop, rfl⟩ | ⟨o, ho, rfl⟩ := raised_of_step hstep hset <;> cases hr
    · exact ⟨rfl, rfl⟩
    · exact ⟨rfl, rfl⟩
    · exact ⟨rfl, hop.symm⟩
    · exact ⟨rfl, ho.symm⟩
  · rw [← State.cause_eq_none_iff]
    unfold State.faultCode
    cases s.cause with
    | none => simp
    | some f => cases f <;> simp [Fault.code]

/-- Settles O34, from the answer of each instruction. -/
theorem everyInstructionAnswersANextState : Obligations.EveryInstructionAnswersANextState :=
  exec_answers

/-- Settles O50: `pc` stays below an odd `L` along the run, so a state of it that has no step is not
Running for its latch alone. -/
theorem oddLengthRunsNeverHalt : Obligations.OddLengthRunsNeverHalt := by
  intro a0 b0 c0 p s hodd hr
  have hpos : 0 < p.length := by omega
  obtain ⟨-, hlt⟩ : s.BeforeOddEnd :=
    hr.keeps (P := fun u => u.BeforeOddEnd) (fun _ _ h => beforeOddEnd_of_step h.1) ⟨hodd, hpos⟩
  refine ⟨fun hhalt => ?_, fun hstuck => ?_⟩
  · obtain ⟨-, hend⟩ := State.status_eq_halted_iff.1 hhalt
    exact hlt.not_ge hend
  · have hset : s.fault ≠ none := fun hclear =>
      have ⟨t, hstep⟩ := step_answers_of_running (s.status_eq_running_iff.2 ⟨hclear, hlt⟩)
      hstuck t hstep
    obtain ⟨f, hcause⟩ := State.exists_cause_of_fault_ne_none hset
    exact ⟨f, State.hostView_of_cause hcause⟩

/-- Settles O1, by evaluation of the launch. -/
theorem resetIsTheLaunchOfTheEmptyProgram : Obligations.ResetIsTheLaunchOfTheEmptyProgram :=
  ⟨rfl, State.status_eq_halted_iff.2 ⟨rfl, Nat.le_refl 0⟩⟩

/-- Settles O5, from the status of each. -/
theorem terminalStatesAnswerByName : Obligations.TerminalStatesAnswerByName := by
  refine fun s => ⟨fun _ => step_of_cause, fun hclear hend => ?_⟩
  simp only [step, State.status_eq_halted_iff.2 ⟨hclear, hend⟩]

/-- Settles O6, from the status in each clause. -/
theorem hostReceivesTheResultOrTheCondition : Obligations.HostReceivesTheResultOrTheCondition := by
  refine fun s => ⟨fun hclear hend => ?_, fun _ => State.hostView_of_cause, fun hclear hlt => ?_⟩
  · simp only [State.hostView, State.status_eq_halted_iff.2 ⟨hclear, hend⟩]
  · simp only [State.hostView, s.status_eq_running_iff.2 ⟨hclear, hlt⟩]

/-- Settles O51: the five combo opcodes are one case. -/
theorem comboMeaningsTakeTheFaultOnOperandSeven :
    Obligations.ComboMeaningsTakeTheFaultOnOperandSeven :=
  fun s => ⟨s.withCombo_seven (s.divideInto .A) rfl,
    s.withCombo_seven (fun v => s.setB (lowDigit v)) rfl,
    s.withCombo_seven (fun v => (s.appendOut (lowDigitWord v)).advance) rfl,
    s.withCombo_seven (s.divideInto .B) rfl, s.withCombo_seven (s.divideInto .C) rfl⟩

end Sys2Proof.Machine
